-- ==== Sys2Proof/Word.lean ====
section
/-! DEFINITION. The words of the block, each at the width the spec gives it (spec/00_scope.md R11, R12, R14). -/

namespace Sys2Proof

/-- A byte of the UART stream or of the segment port (R92, R130). -/
abbrev Byte := BitVec 8

/-- A height, or the sentinel: signed two's complement, in tenths of a centimetre (R40). The width is the parameter
HEIGHT_WIDTH of R12, 16 where it is not given. -/
abbrev Height (heightWidth : Nat := 16) := BitVec heightWidth

/-- A height that a decoder reports (O6 of R171): not negative, so it has one bit less than a stored height. -/
abbrev Reading (heightWidth : Nat := 16) := BitVec (heightWidth - 1)

/-- Milliseconds on the `now` port, and the probe's start time (R43, R45). The width is the parameter TIME_WIDTH of R12,
32 where it is not given. -/
abbrev Time (timeWidth : Nat := 32) := BitVec timeWidth

/-- A command word `cmd[11:0]` (R90). -/
abbrev CmdWord := BitVec 12

/-- A variant tag as it stands in a command or on `cfg_variant` (R93, R100). -/
abbrev Tag := BitVec 3

/-- A seven-segment pattern `b[6:0]` (R106, R115). -/
abbrev Pattern := BitVec 7

end Sys2Proof
end

