-- ==== Sys2Proof/Config.lean ====
section
/-! DEFINITION. The parameters of the block (spec/00_scope.md R12), the frame-decoder contract (spec/41_frame_decoder.md
R170, R171), and the three OPEN decoders as free constants. The default instance's VALUES stand in Machine/Params.lean. -/

namespace Sys2Proof

/-- The real variants, the ones the register `variant` can hold (R41, R100). UNKNOWN and the invalid tags are operands
only (log 8); `Machine.variantOfTag` reads an operand. -/
inductive Variant where
  | alza
  | jarvis
  | uplift
  | omnidesk
  deriving DecidableEq, Repr

/-- What one step of a frame decoder reports: the pair (complete, mism) of R150, without the combination that
obligation O3 of R171 excludes (log 7). -/
inductive Report where
  /-- complete = false, mism = false. -/
  | quiet
  /-- complete = true, mism = false. -/
  | complete
  /-- complete = false, mism = true. -/
  | mismatch
  deriving DecidableEq, Repr, Inhabited

/-- A frame decoder `D_v` over its state type (R170). Every step is total (O1). `decode` answers `none` where a digit is
unrecognized, and otherwise a height that is not negative and fits a stored height (O6; 0 to 32767 at the default width): a
`Reading` holds exactly that range (log 7). The state type holds everything (O7). -/
structure FrameDecoder (S : Type) (heightWidth : Nat := 16) where
  init : S
  step : S → Byte → S × Report
  reset : S → S
  decode : S → Option (Reading heightWidth)
  deriving Inhabited

/-- A code for a value of an OPEN decoder's finite state type `S_v`: the numbers hold every finite type (R170, log 6). -/
abbrev Code := Nat

/-- DEC_JARVIS: no source gives it (R109, R173). Nothing is assumed of it beyond its type (log 6). -/
opaque Config.openJarvis : FrameDecoder Code

/-- DEC_UPLIFT: no source gives it (R109, R173). -/
opaque Config.openUplift : FrameDecoder Code

/-- DEC_OMNIDESK: no source gives it (R109, R173). -/
opaque Config.openOmnidesk : FrameDecoder Code

/-- The named parameters of R12. TIME_WIDTH and HEIGHT_WIDTH are the arguments of the type (log 18), and FIRST_VARIANT and
LAST_VARIANT are computed from `variantOrder`, as R12 says. -/
structure Config (timeWidth : Nat := 32) (heightWidth : Nat := 16) where
  /-- START_MARKER_ALZA. -/
  startMarkerAlza : Byte
  /-- SEG_CODE[0..9], in the order of the digits. -/
  segCode : List Byte
  /-- DETECT_TIMEOUT_MS. -/
  detectTimeoutMs : Time timeWidth
  /-- SENTINEL: SENTINEL_CM, in tenths. -/
  sentinel : Height heightWidth
  /-- DEFAULT_VARIANT. -/
  defaultVariant : Variant
  /-- VARIANT_ORDER. -/
  variantOrder : List Variant
  decJarvis : FrameDecoder Code heightWidth
  decUplift : FrameDecoder Code heightWidth
  decOmnidesk : FrameDecoder Code heightWidth
  /-- HEIGHT_TO_REAL: the height in cm that a stored height stands for (R40, I9). -/
  heightToReal : Height heightWidth → Rat

end Sys2Proof
end

