-- ==== Sys2Proof/Machine/Params.lean ====
section
/-! DEFINITION. The default instance of the parameters (spec/00_scope.md R12), the one the rules and vectors of the spec use.
TIME_WIDTH is 32 and HEIGHT_WIDTH 16. -/

namespace Sys2Proof.Machine

/-- DOC's literals are normative and unaudited (R7, N1; log 16). The three decoders are OPEN (R173; log 6). -/
def params : Config 32 16 where
  startMarkerAlza := 0x5A
  segCode := [0x3F, 0x06, 0x5B, 0x4F, 0x66, 0x6D, 0x7D, 0x07, 0x7F, 0x6F]
  detectTimeoutMs := 1000
  sentinel := -10
  defaultVariant := .alza
  variantOrder := [.alza, .jarvis, .uplift, .omnidesk]
  decJarvis := Config.openJarvis
  decUplift := Config.openUplift
  decOmnidesk := Config.openOmnidesk
  heightToReal := fun h => (h.toInt : Rat) / 10

end Sys2Proof.Machine
end

