-- ==== Sys2Proof/Syntax.lean ====
section
/-! DEFINITION. The instructions: one constructor for each row of spec/opcode_table.json. The first eight are the commands
of spec/30_encoding.md R91; the ten `segDigit` rows are the match rows of the combinational segment port (R115, R131). -/

namespace Sys2Proof

inductive Instr where
  /-- NOP, an idle cycle (R210). -/
  | nop
  /-- BYTE_IN, whose operand is any byte (R92, R150). -/
  | byteIn (b : Byte)
  /-- TICK_CHECK, the detection check of the tick (R205). -/
  | tickCheck
  /-- SELECT, whose operand is a variant tag; all eight tags are legal operands (R93, R101, R190). -/
  | select (t : Tag)
  /-- START_DETECT (R195). -/
  | startDetect
  /-- ADVANCE (R200). -/
  | advance
  /-- DEC_RESET (R158). -/
  | decReset
  /-- POLL (R230). -/
  | poll
  /-- SEG_DIGIT_0: `seg_in` holds the pattern of 0, with `dp` on bit 7, which the codec masks away (R115, R131). -/
  | segDigit0 (dp : Bool)
  /-- SEG_DIGIT_1: `seg_in` holds the pattern of 1. -/
  | segDigit1 (dp : Bool)
  /-- SEG_DIGIT_2: `seg_in` holds the pattern of 2. -/
  | segDigit2 (dp : Bool)
  /-- SEG_DIGIT_3: `seg_in` holds the pattern of 3. -/
  | segDigit3 (dp : Bool)
  /-- SEG_DIGIT_4: `seg_in` holds the pattern of 4. -/
  | segDigit4 (dp : Bool)
  /-- SEG_DIGIT_5: `seg_in` holds the pattern of 5. -/
  | segDigit5 (dp : Bool)
  /-- SEG_DIGIT_6: `seg_in` holds the pattern of 6. -/
  | segDigit6 (dp : Bool)
  /-- SEG_DIGIT_7: `seg_in` holds the pattern of 7. -/
  | segDigit7 (dp : Bool)
  /-- SEG_DIGIT_8: `seg_in` holds the pattern of 8. -/
  | segDigit8 (dp : Bool)
  /-- SEG_DIGIT_9: `seg_in` holds the pattern of 9. -/
  | segDigit9 (dp : Bool)
  deriving DecidableEq, Repr

end Sys2Proof
end

