-- ==== Sys2Proof/Decode.lean ====
section
/-! DEFINITION. From the words the host presents to instructions, and back. Two ports carry words: `cmd[11:0]` carries a
command (spec/30_encoding.md R90 to R94) and `seg_in[7:0]` carries a segment byte (R106, R115). The codes of the segment rows
are the parameter SEG_CODE, so decoder and encoder take the parameters; `decode` and `encode` are the default instance's. -/

namespace Sys2Proof

variable {tw hw : Nat}

/-- A word on one of the two ports that carry an encoding. -/
inductive PortWord where
  | cmd (w : CmdWord)
  | seg (b : Byte)
  deriving DecidableEq, Repr

/-- Why a word is no instruction of the table. -/
inductive Reject where
  /-- A command word whose `op` is 0x8 to 0xF (R94 (a)). -/
  | reservedOp (op : BitVec 4)
  /-- A command word without operand whose `arg` is not 0x00 (R94 (b)). -/
  | nonzeroArg (op : BitVec 4) (arg : Byte)
  /-- SELECT with `arg[7:3]` not 0 (R94 (c)). -/
  | nonzeroSelectBits (bits : BitVec 5)
  /-- A segment pattern outside the ten codes (R115). -/
  | unrecognizedPattern (p : Pattern)
  deriving DecidableEq, Repr

/-- What a decoder answers. -/
inductive Decoded where
  | ok (i : Instr)
  | rejected (r : Reject)
  deriving DecidableEq, Repr

def Decoded.toOption : Decoded → Option Instr
  | .ok i => some i
  | .rejected _ => none

/-- The field `op` = `cmd[11:8]` (R90). -/
def cmdOp (w : CmdWord) : BitVec 4 := w.extractLsb' 8 4

/-- The field `arg` = `cmd[7:0]` (R90). -/
def cmdArg (w : CmdWord) : Byte := w.extractLsb' 0 8

/-- SELECT's reserved bits `arg[7:3]` (R93). -/
def selectBits (arg : Byte) : BitVec 5 := arg.extractLsb' 3 5

/-- SELECT's operand `arg[2:0]` (R93). -/
def selectTag (arg : Byte) : Tag := arg.extractLsb' 0 3

/-- The pattern `b[6:0]` of a segment byte: the top bit masked off (R106). -/
def segPattern (b : Byte) : Pattern := b.extractLsb' 0 7

/-- The top bit `b[7]` of a segment byte (R106). -/
def segTopBit (b : Byte) : Bool := b.getLsbD 7

/-- An operation without operand: `arg` must be 0x00 (R91, R94 (b)). -/
def decodeNoOperand (w : CmdWord) (i : Instr) : Decoded :=
  if cmdArg w = 0x00#8 then .ok i else .rejected (.nonzeroArg (cmdOp w) (cmdArg w))

/-- The command decoder (R91 to R94), total on the 12-bit words. -/
def decodeCmd (w : CmdWord) : Decoded :=
  match (cmdOp w).toNat with
  | 0x0 => decodeNoOperand w .nop
  | 0x1 => .ok (.byteIn (cmdArg w))
  | 0x2 => decodeNoOperand w .tickCheck
  | 0x3 =>
    if selectBits (cmdArg w) = 0#5 then .ok (.select (selectTag (cmdArg w)))
    else .rejected (.nonzeroSelectBits (selectBits (cmdArg w)))
  | 0x4 => decodeNoOperand w .startDetect
  | 0x5 => decodeNoOperand w .advance
  | 0x6 => decodeNoOperand w .decReset
  | 0x7 => decodeNoOperand w .poll
  | _ => .rejected (.reservedOp (cmdOp w))

/-- What SEGDEC answers (R16, R131). -/
inductive SegResult where
  | digit (d : Nat)
  | unrec
  deriving DecidableEq, Repr

/-- The loop of SEGDEC over the codes of the digits `d`, `d + 1`, … (R131). -/
def segScan (p : Pattern) (d : Nat) : List Byte → SegResult
  | [] => .unrec
  | k :: ks => if p = segPattern k then .digit d else segScan p (d + 1) ks

/-- SEGDEC(b): mask the top bit, then look the pattern up in SEG_CODE (R131). -/
def segDec (c : Config tw hw) (b : Byte) : SegResult := segScan (segPattern b) 0 c.segCode

/-- The row of the opcode table for a digit, with the ignored bit 7 (R115). -/
def segRow (dp : Bool) : Nat → Option Instr
  | 0 => some (.segDigit0 dp)
  | 1 => some (.segDigit1 dp)
  | 2 => some (.segDigit2 dp)
  | 3 => some (.segDigit3 dp)
  | 4 => some (.segDigit4 dp)
  | 5 => some (.segDigit5 dp)
  | 6 => some (.segDigit6 dp)
  | 7 => some (.segDigit7 dp)
  | 8 => some (.segDigit8 dp)
  | 9 => some (.segDigit9 dp)
  | _ => none

/-- The segment rows: the row of the digit whose code the byte holds, bit 7 ignored (R115), total on the bytes. -/
def decodeSegWith (c : Config tw hw) (b : Byte) : Decoded :=
  match segDec c b with
  | .unrec => .rejected (.unrecognizedPattern (segPattern b))
  | .digit d =>
    match segRow (segTopBit b) d with
    | some i => .ok i
    | none => .rejected (.unrecognizedPattern (segPattern b))

/-- The decoder of both ports. -/
def decodeWith (c : Config tw hw) : PortWord → Decoded
  | .cmd w => decodeCmd w
  | .seg b => decodeSegWith c b

/-- The decoder of the default instance. -/
def decode (w : PortWord) : Decoded := decodeWith Machine.params w

/-- A command word from its two fields (R90). -/
def cmdWord (op : BitVec 4) (arg : Byte) : CmdWord := op ++ arg

/-- A segment byte from its two fields (R106). -/
def segByte (dp : Bool) (p : Pattern) : Byte := BitVec.ofBool dp ++ p

/-- The code of a digit, without its top bit (R115). -/
def codeOf (c : Config tw hw) (d : Nat) : Pattern := segPattern (c.segCode.getD d 0)

/-- The word of an instruction, from the tables of R91, R93 and R115. -/
def encodeWith (c : Config tw hw) : Instr → PortWord
  | .nop => .cmd (cmdWord 0x0 0x00)
  | .byteIn b => .cmd (cmdWord 0x1 b)
  | .tickCheck => .cmd (cmdWord 0x2 0x00)
  | .select t => .cmd (cmdWord 0x3 (0#5 ++ t))
  | .startDetect => .cmd (cmdWord 0x4 0x00)
  | .advance => .cmd (cmdWord 0x5 0x00)
  | .decReset => .cmd (cmdWord 0x6 0x00)
  | .poll => .cmd (cmdWord 0x7 0x00)
  | .segDigit0 dp => .seg (segByte dp (codeOf c 0))
  | .segDigit1 dp => .seg (segByte dp (codeOf c 1))
  | .segDigit2 dp => .seg (segByte dp (codeOf c 2))
  | .segDigit3 dp => .seg (segByte dp (codeOf c 3))
  | .segDigit4 dp => .seg (segByte dp (codeOf c 4))
  | .segDigit5 dp => .seg (segByte dp (codeOf c 5))
  | .segDigit6 dp => .seg (segByte dp (codeOf c 6))
  | .segDigit7 dp => .seg (segByte dp (codeOf c 7))
  | .segDigit8 dp => .seg (segByte dp (codeOf c 8))
  | .segDigit9 dp => .seg (segByte dp (codeOf c 9))

/-- The encoder of the default instance. -/
def encode (i : Instr) : PortWord := encodeWith Machine.params i

/-- The port word that carries a word of the opcode table. A row of at most 8 bits is a row of the segment port and a wider
one a row of the command port (the table's "format" says which; log 14). A word with a bit set outside its port
(above bit 7, or above bit 11) is no port word. -/
def tablePortWord (nbits w : Nat) : Option PortWord :=
  if nbits ≤ 8 then
    if w < 2 ^ 8 then some (.seg (BitVec.ofNat 8 w)) else none
  else
    if w < 2 ^ 12 then some (.cmd (BitVec.ofNat 12 w)) else none

/-- The instruction this decoder reads from a word numbered as spec/opcode_table.json numbers it. -/
def decodeTableWord (nbits w : Nat) : Option Instr :=
  match tablePortWord nbits w with
  | some pw => (decode pw).toOption
  | none => none

end Sys2Proof
end

