-- ==== Sys2Proof/Machine/DecoderState.lean ====
section
/-! DEFINITION. What the frame decoders hold: the registers of the ALZA decoder and the one live decoder of any variant
(spec/10_state.md R32 to R35). -/

namespace Sys2Proof.Machine

/-- `fstate` of the ALZA decoder (R32). The values 6 and 7 of the 3-bit field do not exist here (R33). -/
inductive FState where
  | waitStart
  | byte1
  | byte2
  | byte3
  | byte4
  | checksum
  deriving DecidableEq, Repr

/-- The frame buffer `buf[0..3]` (R35, R71). -/
structure FrameBuf where
  slot0 : Byte
  slot1 : Byte
  slot2 : Byte
  slot3 : Byte
  deriving DecidableEq, Repr

/-- `S_ALZA` = `{fstate, acc, buf[0..3]}` (R35, R170). -/
structure AlzaState where
  fstate : FState
  acc : Byte
  buf : FrameBuf
  deriving DecidableEq, Repr

/-- `dec`, the one live decoder's state: a sum whose tag is the variant it belongs to (R35). -/
inductive Dec where
  | alza (d : AlzaState)
  | jarvis (k : Code)
  | uplift (k : Code)
  | omnidesk (k : Code)
  deriving DecidableEq, Repr

end Sys2Proof.Machine
end

