-- ==== Sys2Proof/Machine/Decoders.lean ====
section
/-! DEFINITION. The frame decoders (spec/41_frame_decoder.md): the ALZA state machine and height assembly (R151 to R163),
and the one decoder that is live, whatever its variant (R170, R172). -/

namespace Sys2Proof.Machine

variable {tw hw : Nat}

/-- `init_ALZA` (R159). -/
def initAlza : AlzaState :=
  { fstate := .waitStart, acc := 0x00, buf := { slot0 := 0x00, slot1 := 0x00, slot2 := 0x00, slot3 := 0x00 } }

/-- `step_ALZA`, row by row of the table of R156. -/
def stepAlza (c : Config tw hw) (d : AlzaState) (b : Byte) : AlzaState × Report :=
  match d.fstate with
  | .waitStart => if b = c.startMarkerAlza then ({ d with fstate := .byte1, acc := 0x00 }, .quiet) else (d, .quiet)
  | .byte1 => ({ fstate := .byte2, acc := d.acc + b, buf := { d.buf with slot0 := b } }, .quiet)
  | .byte2 => ({ fstate := .byte3, acc := d.acc + b, buf := { d.buf with slot1 := b } }, .quiet)
  | .byte3 => ({ fstate := .byte4, acc := d.acc + b, buf := { d.buf with slot2 := b } }, .quiet)
  | .byte4 => ({ fstate := .checksum, acc := d.acc + b, buf := { d.buf with slot3 := b } }, .quiet)
  | .checksum =>
    if b = d.acc then ({ d with fstate := .waitStart }, .complete)
    else ({ d with fstate := .waitStart, acc := 0x00 }, .mismatch)

/-- `reset_ALZA`: the buffer is unchanged (R158). -/
def resetAlza (d : AlzaState) : AlzaState := { d with fstate := .waitStart, acc := 0x00 }

/-- The decimal flag, bit 7 of slot 1 and of no other slot (R106, R160). -/
def decimalFlag (m : FrameBuf) : Bool := segTopBit m.slot1

/-- The height of three digits in tenths of a cm (R160 to R162). -/
def assembleDigits (flag : Bool) (d0 d1 d2 : Nat) : Nat :=
  if flag then 100 * d0 + 10 * d1 + d2 else 10 * (100 * d0 + 10 * d1 + d2)

/-- `decode_ALZA` (R160); `none` stands for the sentinel, which `heightOf` stores. -/
def decodeAlza (c : Config tw hw) (d : AlzaState) : Option (Reading hw) :=
  match segDec c d.buf.slot0, segDec c d.buf.slot1, segDec c d.buf.slot2 with
  | .digit d0, .digit d1, .digit d2 => some (BitVec.ofNat (hw - 1) (assembleDigits (decimalFlag d.buf) d0 d1 d2))
  | _, _, _ => none

/-- `D_ALZA` (R170, R174). -/
def alzaDecoder (c : Config tw hw) : FrameDecoder AlzaState hw where
  init := initAlza
  step := stepAlza c
  reset := resetAlza
  decode := decodeAlza c

/-- The variant a decoder state belongs to (R35). -/
def variantOfDec : Dec → Variant
  | .alza _ => .alza
  | .jarvis _ => .jarvis
  | .uplift _ => .uplift
  | .omnidesk _ => .omnidesk

/-- `init_v` (R170, R172). -/
def initDec (c : Config tw hw) : Variant → Dec
  | .alza => .alza (alzaDecoder c).init
  | .jarvis => .jarvis c.decJarvis.init
  | .uplift => .uplift c.decUplift.init
  | .omnidesk => .omnidesk c.decOmnidesk.init

/-- `step_v` of the decoder that is live (R150, R170). The decoder's own tag chooses `v`; it equals the register `variant` in
every state that meets the invariant (R35, log 9). -/
def stepDec (c : Config tw hw) (dec : Dec) (b : Byte) : Dec × Report :=
  match dec with
  | .alza d => let r := (alzaDecoder c).step d b; (.alza r.1, r.2)
  | .jarvis k => let r := c.decJarvis.step k b; (.jarvis r.1, r.2)
  | .uplift k => let r := c.decUplift.step k b; (.uplift r.1, r.2)
  | .omnidesk k => let r := c.decOmnidesk.step k b; (.omnidesk r.1, r.2)

/-- `reset_v` of the decoder that is live (R158, R170). -/
def resetDec (c : Config tw hw) : Dec → Dec
  | .alza d => .alza ((alzaDecoder c).reset d)
  | .jarvis k => .jarvis (c.decJarvis.reset k)
  | .uplift k => .uplift (c.decUplift.reset k)
  | .omnidesk k => .omnidesk (c.decOmnidesk.reset k)

/-- `decode_v` of the decoder that is live (R157, R170). -/
def decodeDec (c : Config tw hw) : Dec → Option (Reading hw)
  | .alza d => (alzaDecoder c).decode d
  | .jarvis k => c.decJarvis.decode k
  | .uplift k => c.decUplift.decode k
  | .omnidesk k => c.decOmnidesk.decode k

/-- A reported height as `last_read` stores it: SENTINEL where a digit is unrecognized (R160, R171 O6). -/
def heightOf (c : Config tw hw) : Option (Reading hw) → Height hw
  | some h => h.setWidth hw
  | none => c.sentinel

end Sys2Proof.Machine
end

