-- ==== Sys2Proof/Machine/State.lean ====
section
/-! DEFINITION. The whole state of the block (spec/10_state.md R30, R36), the ports the host drives (spec/00_scope.md R11)
as plain data, the reasons a step can stop (none: spec/60_exceptions.md R242, R246), and the state after reset (R55). -/

namespace Sys2Proof.Machine

/-- The diagnostic events (R110). -/
inductive Diag where
  | checksumMismatch
  | unrecognizedDigit
  | unknownVariant
  | detectionExhausted
  | detectionConfirmed
  | candidateAdvanced
  | illegalCommand
  deriving DecidableEq, Repr

/-- The input ports at one rising edge of `clk` (R11). -/
structure Edge (timeWidth : Nat := 32) where
  rst : Bool
  cfgVariant : Tag
  cmdValid : Bool
  cmd : CmdWord
  now : Time timeWidth
  deriving DecidableEq, Repr

/-- What the host can do to the block: give it one clock edge, or put a new level on the combinational port `seg_in`, which
has no clock (R8, R130; log 1). -/
inductive Input (timeWidth : Nat := 32) where
  | edge (e : Edge timeWidth)
  | seg (b : Byte)
  deriving DecidableEq, Repr

/-- Every register of R30 and R36, and the model's own three fields for the input ports (log 1). TIME_WIDTH and HEIGHT_WIDTH
of R12 are its arguments; `State` alone is the state of the default instance (log 18). -/
structure State (timeWidth : Nat := 32) (heightWidth : Nat := 16) where
  /-- The active variant (R41). -/
  variant : Variant
  /-- The active frame decoder's state (R35). -/
  dec : Dec
  /-- R42. -/
  detectActive : Bool
  /-- R43. -/
  probeStart : Time timeWidth
  /-- R40. -/
  lastRead : Height heightWidth
  /-- R46. -/
  lastPub : Height heightWidth
  /-- Event register (R36). -/
  frameComplete : Bool
  /-- Event register (R36, R240). -/
  diagValid : Bool
  /-- Event register (R36, R240). -/
  diagCode : BitVec 3
  /-- Event register (R36, R230). -/
  pubValid : Bool
  /-- Event register (R36, R230). -/
  pubValue : Height heightWidth
  /-- The model's own: the level on `now` at the edge being performed (R45). -/
  now : Time timeWidth
  /-- The model's own: the level on `seg_in` (R130). -/
  segIn : Byte
  /-- The model's own: what the host presents next, oldest first. -/
  inputs : List (Input timeWidth)
  deriving DecidableEq, Repr

/-- The output ports (R11), each at its width. -/
structure Outputs (heightWidth : Nat := 16) where
  segDigit : BitVec 4
  segOk : Bool
  frameComplete : Bool
  lastRead : Height heightWidth
  variant : Tag
  detectActive : Bool
  diagValid : Bool
  diagCode : BitVec 3
  pubValid : Bool
  pubValue : Height heightWidth
  deriving DecidableEq, Repr

/-- The faults of the block. There are none: "nothing in this core is fatal", the block takes no traps, and every operation
runs to completion (R241, R242, R246). So a step never faults, by its type (log 20). -/
inductive Fault where
  deriving DecidableEq, Repr

/-- The reasons the model refuses an instruction. -/
inductive Refusal where
  /-- Raised only by an arm of `exec` for an instruction that has no meaning yet; no arm of this model raises it.
  It would be safe: nothing can be proved of a machine that has stopped. -/
  | notModelled (mnemonic : String)
  deriving DecidableEq, Repr

/-- POR with `cfg_variant` = the tag of DEFAULT_VARIANT (R55, R270, R271), for every instance of the parameters. DESIGN CHOICE
(log 3): the spec leaves `cfg_variant` to the host; `powerOnReset` gives the result for every `cfg_variant`. The last three
fields are the model's own (DESIGN CHOICE, log 4). -/
def State.initial {tw hw : Nat} (c : Config tw hw) : State tw hw where
  variant := c.defaultVariant
  dec := initDec c c.defaultVariant
  detectActive := false
  probeStart := 0
  lastRead := c.sentinel
  lastPub := c.sentinel
  frameComplete := false
  diagValid := false
  diagCode := 0
  pubValid := false
  pubValue := 0
  now := 0
  segIn := 0x00
  inputs := []

/-- The default instance right after reset, the state spec/95_test_vectors.md calls `S_fixA` (log 3, 4). -/
def State.reset : State := State.initial params

end Sys2Proof.Machine
end

