-- ==== Sys2Proof/Machine/Flags.lean ====
section
/-! DEFINITION. The event registers, which every operation writes (spec/10_state.md R36): cleared first, then set by what
the operation emits (spec/00_scope.md R16). -/

namespace Sys2Proof.Machine

variable {tw hw : Nat}

/-- The diagnostic codes (R110). -/
def diagCodeOf : Diag → BitVec 3
  | .checksumMismatch => 1
  | .unrecognizedDigit => 2
  | .unknownVariant => 3
  | .detectionExhausted => 4
  | .detectionConfirmed => 5
  | .candidateAdvanced => 6
  | .illegalCommand => 7

/-- What the event registers hold after an operation that emits nothing (R36). -/
def State.clearEvents (s : State tw hw) : State tw hw :=
  { s with frameComplete := false, diagValid := false, diagCode := 0, pubValid := false, pubValue := 0 }

/-- `emit FrameComplete` (R16, R36). -/
def State.emitFrameComplete (s : State tw hw) : State tw hw := { s with frameComplete := true }

/-- `emit Diag(code)`, the one way every error is reported (R16, R240). -/
def State.emitDiag (d : Diag) (s : State tw hw) : State tw hw := { s with diagValid := true, diagCode := diagCodeOf d }

/-- `emit Publish(v)` (R16, R36). -/
def State.emitPublish (v : Height hw) (s : State tw hw) : State tw hw := { s with pubValid := true, pubValue := v }

end Sys2Proof.Machine
end

