-- ==== Sys2Proof/Machine/Operands.lean ====
section
/-! DEFINITION. What an operand or a port stands for: variant tags, the enumeration order, and the output
ports. -/

namespace Sys2Proof.Machine

variable {tw hw : Nat}

/-- The real variant a tag names; `none` for UNKNOWN (0) and for the invalid tags 5 to 7 (R100, R101). -/
def variantOfTag (t : Tag) : Option Variant :=
  match t.toNat with
  | 1 => some .alza
  | 2 => some .jarvis
  | 3 => some .uplift
  | 4 => some .omnidesk
  | _ => none

/-- The tag UNKNOWN (R100). -/
def tagUnknown : Tag := 0

/-- The tag of a real variant, as the port `variant[2:0]` shows it (R100). -/
def tagOfVariant : Variant → Tag
  | .alza => 1
  | .jarvis => 2
  | .uplift => 3
  | .omnidesk => 4

/-- The numeric value of `fstate` (R32). -/
def fstateValue : FState → BitVec 3
  | .waitStart => 0
  | .byte1 => 1
  | .byte2 => 2
  | .byte3 => 3
  | .byte4 => 4
  | .checksum => 5

/-- FIRST_VARIANT: the first of VARIANT_ORDER (R12). -/
def firstVariant (c : Config tw hw) : Variant := c.variantOrder.headD c.defaultVariant

/-- LAST_VARIANT: the last of VARIANT_ORDER (R12). -/
def lastVariant (c : Config tw hw) : Variant := c.variantOrder.getLastD c.defaultVariant

/-- The next enumerated variant: the one that follows `v` in VARIANT_ORDER, which is tag + 1 in the default instance (R100).
Where nothing follows `v` the answer is DEFAULT_VARIANT; ADVANCE never asks that of a well-formed instance (log 17). -/
def nextVariant (c : Config tw hw) (v : Variant) : Variant :=
  ((c.variantOrder.dropWhile (fun u => u != v)).drop 1).headD c.defaultVariant

/-- `seg_digit[3:0]` (R132). -/
def segDigitOut : SegResult → BitVec 4
  | .digit d => BitVec.ofNat 4 d
  | .unrec => 0xF

/-- `seg_ok` (R132). -/
def segOkOut : SegResult → Bool
  | .digit _ => true
  | .unrec => false

/-- The output ports (R11). The two segment outputs are a pure function of the level on `seg_in` (R130, log 12). -/
def outputsWith (c : Config tw hw) (s : State tw hw) : Outputs hw where
  segDigit := segDigitOut (segDec c s.segIn)
  segOk := segOkOut (segDec c s.segIn)
  frameComplete := s.frameComplete
  lastRead := s.lastRead
  variant := tagOfVariant s.variant
  detectActive := s.detectActive
  diagValid := s.diagValid
  diagCode := s.diagCode
  pubValid := s.pubValid
  pubValue := s.pubValue

end Sys2Proof.Machine
end

