-- ==== Sys2Proof/Machine/Ops.lean ====
section
/-! DEFINITION. The operations of the block as functions of the state, over the parameters. Each writes the event registers
(R36) and reads the state from before the operation (R16). The block has no trap to take (R246): what other hardware
reports by an exception it reports by `State.emitDiag`, and goes on. -/

namespace Sys2Proof.Machine

variable {tw hw : Nat}

/-- A variant change: `variant` and `dec` are replaced together, `dec` by `init_v`, even when the variant stays the same
(R35, R78, R172). -/
def State.install (c : Config tw hw) (v : Variant) (s : State tw hw) : State tw hw := { s with variant := v, dec := initDec c v }

/-- NOP, and what every other operation starts from (R36, R210). -/
def idle (s : State tw hw) : State tw hw := s.clearEvents

/-- An illegal command: no register changes, ILLEGAL_COMMAND is raised (R215). -/
def illegalCommand (s : State tw hw) : State tw hw := s.clearEvents.emitDiag .illegalCommand

/-- COMPLETE(d1), with `d1` already in `dec` (R157). -/
def complete (c : Config tw hw) (s : State tw hw) : State tw hw :=
  let h := heightOf c (decodeDec c s.dec)
  let s1 := { s with lastRead := h }.emitFrameComplete
  if h = c.sentinel then s1.emitDiag .unrecognizedDigit else s1

/-- BYTE_IN (R150). -/
def consumeByte (c : Config tw hw) (b : Byte) (s : State tw hw) : State tw hw :=
  let r := stepDec c s.dec b
  let s1 := { s.clearEvents with dec := r.1 }
  match r.2 with
  | .quiet => s1
  | .mismatch => s1.emitDiag .checksumMismatch
  | .complete => complete c s1

/-- DEC_RESET (R158). -/
def resetDecoder (c : Config tw hw) (s : State tw hw) : State tw hw := { s.clearEvents with dec := resetDec c s.dec }

/-- SELECT (R190). -/
def selectVariant (c : Config tw hw) (t : Tag) (s : State tw hw) : State tw hw :=
  match variantOfTag t with
  | some v => s.clearEvents.install c v
  | none => (s.clearEvents.install c c.defaultVariant).emitDiag .unknownVariant

/-- START_DETECT at the time on `now` (R195). -/
def startDetection (c : Config tw hw) (s : State tw hw) : State tw hw :=
  { s.clearEvents.install c (firstVariant c) with probeStart := s.now, lastRead := c.sentinel, detectActive := true }

/-- ADVANCE at the time on `now` (R200). -/
def advanceCandidate (c : Config tw hw) (s : State tw hw) : State tw hw :=
  if s.variant = lastVariant c then
    { s.clearEvents.install c c.defaultVariant with detectActive := false }.emitDiag .detectionExhausted
  else
    { s.clearEvents.install c (nextVariant c s.variant) with
      probeStart := s.now, lastRead := c.sentinel }.emitDiag .candidateAdvanced

/-- "Expired": the elapsed time, taken mod 2^32, is strictly more than the window (R205, R220). -/
def expired (c : Config tw hw) (s : State tw hw) : Bool := c.detectTimeoutMs.ult (s.now - s.probeStart)

/-- TICK_CHECK at the time on `now` (R205). -/
def checkTick (c : Config tw hw) (s : State tw hw) : State tw hw :=
  if s.detectActive then
    if s.lastRead ≠ c.sentinel then
      { s.clearEvents with detectActive := false }.emitDiag .detectionConfirmed
    else if expired c s then advanceCandidate c s
    else s.clearEvents
  else s.clearEvents

/-- The publish qualifier: positive and new, as signed numbers (R230). -/
def qualifies (s : State tw hw) : Bool := (0 : Height hw).slt s.lastRead && s.lastRead != s.lastPub

/-- POLL (R230). -/
def pollPublish (s : State tw hw) : State tw hw :=
  if qualifies s then { s.clearEvents.emitPublish s.lastRead with lastPub := s.lastRead } else s.clearEvents

/-- CONFIG_APPLY (R271). -/
def configApply (c : Config tw hw) (cfg : Tag) (s : State tw hw) : State tw hw :=
  if cfg = tagUnknown then startDetection c s
  else
    match variantOfTag cfg with
    | some v => s.clearEvents.install c v
    | none => (s.clearEvents.install c c.defaultVariant).emitDiag .unknownVariant

/-- POR with `cfg_variant` = `cfg`, at the time on `now` (R270): first every register, then CONFIG_APPLY, whose writes win
(R16, C13). -/
def powerOnReset (c : Config tw hw) (cfg : Tag) (s : State tw hw) : State tw hw :=
  configApply c cfg
    { s.clearEvents.install c c.defaultVariant with
      lastRead := c.sentinel, lastPub := c.sentinel, detectActive := false, probeStart := 0 }

/-- A new level on the combinational port `seg_in`: no clock edge, so no register and no event register changes (R130). -/
def driveSeg (b : Byte) (s : State tw hw) : State tw hw := { s with segIn := b }

end Sys2Proof.Machine
end

