-- ==== Sys2Proof/Machine/Framing.lean ====
section
/-! DEFINITION. The commands that drive the frame decoder (spec/41_frame_decoder.md). -/

namespace Sys2Proof.Machine

/-- BYTE_IN (R150 to R157). -/
def execByteIn (b : Byte) (s : State) : Host.Outcome State Fault Refusal := .next (consumeByte params b s)

/-- DEC_RESET (R158). -/
def execDecReset (s : State) : Host.Outcome State Fault Refusal := .next (resetDecoder params s)

end Sys2Proof.Machine
end

