-- ==== Sys2Proof/Machine/Publish.lean ====
section
/-! DEFINITION. The publish qualifier (spec/43_publish_filter.md). -/

namespace Sys2Proof.Machine

/-- POLL (R230). -/
def execPoll (s : State) : Host.Outcome State Fault Refusal := .next (pollPublish s)

end Sys2Proof.Machine
end

