-- ==== Sys2Proof/Machine/SegmentPort.lean ====
section
/-! DEFINITION. The segment rows of the opcode table: a byte of the row on the combinational port `seg_in`
(spec/40_digit_codec.md R130). Bit 7 takes the value `dp`; what the ports `seg_digit` and `seg_ok` then show is
`segDec` of the byte (R131, R132), which `State.outputs` reads. -/

namespace Sys2Proof.Machine

/-- The output ports of the default instance (R11). -/
def State.outputs (s : State) : Outputs := outputsWith params s

/-- SEG_DIGIT_0: the code of 0, match 0x3F, mask 0x7F (R115). -/
def execSegDigit0 (dp : Bool) (s : State) : Host.Outcome State Fault Refusal := .next (driveSeg (segByte dp (codeOf params 0)) s)

/-- SEG_DIGIT_1: the code of 1, match 0x06, mask 0x7F (R115). -/
def execSegDigit1 (dp : Bool) (s : State) : Host.Outcome State Fault Refusal := .next (driveSeg (segByte dp (codeOf params 1)) s)

/-- SEG_DIGIT_2: the code of 2, match 0x5B, mask 0x7F (R115). -/
def execSegDigit2 (dp : Bool) (s : State) : Host.Outcome State Fault Refusal := .next (driveSeg (segByte dp (codeOf params 2)) s)

/-- SEG_DIGIT_3: the code of 3, match 0x4F, mask 0x7F (R115). -/
def execSegDigit3 (dp : Bool) (s : State) : Host.Outcome State Fault Refusal := .next (driveSeg (segByte dp (codeOf params 3)) s)

/-- SEG_DIGIT_4: the code of 4, match 0x66, mask 0x7F (R115). -/
def execSegDigit4 (dp : Bool) (s : State) : Host.Outcome State Fault Refusal := .next (driveSeg (segByte dp (codeOf params 4)) s)

/-- SEG_DIGIT_5: the code of 5, match 0x6D, mask 0x7F (R115). -/
def execSegDigit5 (dp : Bool) (s : State) : Host.Outcome State Fault Refusal := .next (driveSeg (segByte dp (codeOf params 5)) s)

/-- SEG_DIGIT_6: the code of 6, match 0x7D, mask 0x7F (R115). -/
def execSegDigit6 (dp : Bool) (s : State) : Host.Outcome State Fault Refusal := .next (driveSeg (segByte dp (codeOf params 6)) s)

/-- SEG_DIGIT_7: the code of 7, match 0x07, mask 0x7F (R115). -/
def execSegDigit7 (dp : Bool) (s : State) : Host.Outcome State Fault Refusal := .next (driveSeg (segByte dp (codeOf params 7)) s)

/-- SEG_DIGIT_8: the code of 8, match 0x7F, mask 0x7F (R115). -/
def execSegDigit8 (dp : Bool) (s : State) : Host.Outcome State Fault Refusal := .next (driveSeg (segByte dp (codeOf params 8)) s)

/-- SEG_DIGIT_9: the code of 9, match 0x6F, mask 0x7F (R115). -/
def execSegDigit9 (dp : Bool) (s : State) : Host.Outcome State Fault Refusal := .next (driveSeg (segByte dp (codeOf params 9)) s)

end Sys2Proof.Machine
end

