-- ==== Sys2Proof/Machine/Selector.lean ====
section
/-! DEFINITION. The commands of the variant-probing selector, and the idle cycle (spec/42_variant_selector.md). -/

namespace Sys2Proof.Machine

/-- NOP (R210). -/
def execNop (s : State) : Host.Outcome State Fault Refusal := .next (idle s)

/-- TICK_CHECK (R205). -/
def execTickCheck (s : State) : Host.Outcome State Fault Refusal := .next (checkTick params s)

/-- SELECT (R190). -/
def execSelect (t : Tag) (s : State) : Host.Outcome State Fault Refusal := .next (selectVariant params t s)

/-- START_DETECT (R195). -/
def execStartDetect (s : State) : Host.Outcome State Fault Refusal := .next (startDetection params s)

/-- ADVANCE (R200). -/
def execAdvance (s : State) : Host.Outcome State Fault Refusal := .next (advanceCandidate params s)

end Sys2Proof.Machine
end

