-- ==== Sys2Proof/Machine/Dispatch.lean ====
section
/-! DEFINITION. One arm for each instruction. -/

namespace Sys2Proof.Machine

def exec (i : Instr) (s : State) : Host.Outcome State Fault Refusal :=
  match i with
  | .nop => Sys2Proof.Machine.execNop s
  | .byteIn b => Sys2Proof.Machine.execByteIn b s
  | .tickCheck => Sys2Proof.Machine.execTickCheck s
  | .select t => Sys2Proof.Machine.execSelect t s
  | .startDetect => Sys2Proof.Machine.execStartDetect s
  | .advance => Sys2Proof.Machine.execAdvance s
  | .decReset => Sys2Proof.Machine.execDecReset s
  | .poll => Sys2Proof.Machine.execPoll s
  | .segDigit0 dp => Sys2Proof.Machine.execSegDigit0 dp s
  | .segDigit1 dp => Sys2Proof.Machine.execSegDigit1 dp s
  | .segDigit2 dp => Sys2Proof.Machine.execSegDigit2 dp s
  | .segDigit3 dp => Sys2Proof.Machine.execSegDigit3 dp s
  | .segDigit4 dp => Sys2Proof.Machine.execSegDigit4 dp s
  | .segDigit5 dp => Sys2Proof.Machine.execSegDigit5 dp s
  | .segDigit6 dp => Sys2Proof.Machine.execSegDigit6 dp s
  | .segDigit7 dp => Sys2Proof.Machine.execSegDigit7 dp s
  | .segDigit8 dp => Sys2Proof.Machine.execSegDigit8 dp s
  | .segDigit9 dp => Sys2Proof.Machine.execSegDigit9 dp s

end Sys2Proof.Machine
end

