-- ==== Sys2Proof/Machine/Fetch.lean ====
section
/-! DEFINITION. What the block performs next, from what the host presents: the operation at a clock edge
(spec/00_scope.md R8, spec/30_encoding.md R95) or a new level on the segment port (spec/40_digit_codec.md R130). -/

namespace Sys2Proof.Machine

variable {tw hw : Nat}

/-- What one step performs. -/
inductive Operation where
  /-- POR with this level on `cfg_variant` (R270). -/
  | por (cfg : Tag)
  /-- An instruction of the table. -/
  | run (i : Instr)
  /-- An illegal command word, and why it is illegal (R94, R215). -/
  | illegal (r : Reject)
  /-- A segment byte outside the ten codes (R132, R134). -/
  | segOther (b : Byte)
  deriving DecidableEq, Repr

/-- The operation at an edge: `rst` wins, then `cmd_valid`, then the word (R95, R275). -/
def edgeOperation (c : Config tw hw) (e : Edge tw) : Operation :=
  if e.rst then .por e.cfgVariant
  else if e.cmdValid then
    match decodeWith c (.cmd e.cmd) with
    | .ok i => .run i
    | .rejected r => .illegal r
  else .run .nop

/-- A new level on `seg_in`: a row of the table, or an unrecognized byte (R115, R131). -/
def segOperation (c : Config tw hw) (b : Byte) : Operation :=
  match decodeWith c (.seg b) with
  | .ok i => .run i
  | .rejected _ => .segOther b

/-- The next operation, and the state it is performed in: the input is taken off the list, and at an edge the level on `now`
is the edge's. With nothing presented the edge has `rst` = 0 and `cmd_valid` = 0, which is NOP (R95; log 2). -/
def fetch (c : Config tw hw) (s : State tw hw) : Operation × State tw hw :=
  match s.inputs with
  | [] => (.run .nop, s)
  | .edge e :: rest => (edgeOperation c e, { s with now := e.now, inputs := rest })
  | .seg b :: rest => (segOperation c b, { s with inputs := rest })

/-- The input by which the host presents a word of a port at the present time, with `rst` = 0. `cfg_variant` is not sampled
then (R47). -/
def inputOfPortWord (now : Time tw) : PortWord → Input tw
  | .cmd w => .edge { rst := false, cfgVariant := 0, cmdValid := true, cmd := w, now := now }
  | .seg b => .seg b

end Sys2Proof.Machine
end

