-- ==== Sys2Proof/Machine/Parametric.lean ====
section
/-! DEFINITION. The block over its parameters: the step function of spec/00_scope.md R9, which takes the parameters of R12 as an
argument, so that the block can be re-instantiated (R7). `step` and `exec` are its default instance. -/

namespace Sys2Proof.Machine

variable {tw hw : Nat}

/-- What each instruction does. -/
def effect (c : Config tw hw) : Instr → State tw hw → State tw hw
  | .nop => idle
  | .byteIn b => consumeByte c b
  | .tickCheck => checkTick c
  | .select t => selectVariant c t
  | .startDetect => startDetection c
  | .advance => advanceCandidate c
  | .decReset => resetDecoder c
  | .poll => pollPublish
  | .segDigit0 dp => driveSeg (segByte dp (codeOf c 0))
  | .segDigit1 dp => driveSeg (segByte dp (codeOf c 1))
  | .segDigit2 dp => driveSeg (segByte dp (codeOf c 2))
  | .segDigit3 dp => driveSeg (segByte dp (codeOf c 3))
  | .segDigit4 dp => driveSeg (segByte dp (codeOf c 4))
  | .segDigit5 dp => driveSeg (segByte dp (codeOf c 5))
  | .segDigit6 dp => driveSeg (segByte dp (codeOf c 6))
  | .segDigit7 dp => driveSeg (segByte dp (codeOf c 7))
  | .segDigit8 dp => driveSeg (segByte dp (codeOf c 8))
  | .segDigit9 dp => driveSeg (segByte dp (codeOf c 9))

/-- What each operation does: the `Op` of R9, with POR, the illegal words and the bytes without a row beside the instructions. -/
def perform (c : Config tw hw) : Operation → State tw hw → State tw hw
  | .por cfg => powerOnReset c cfg
  | .run i => effect c i
  | .illegal _ => illegalCommand
  | .segOther b => driveSeg b

/-- The events of R9: the `frame_complete` pulse, the diagnostic event (at most one) and the publish event (at most one). -/
structure Events (heightWidth : Nat := 16) where
  frameComplete : Bool
  diag : Option (BitVec 3)
  publish : Option (Height heightWidth)
  deriving DecidableEq, Repr

/-- The events that the event registers show (R36). -/
def State.events (s : State tw hw) : Events hw where
  frameComplete := s.frameComplete
  diag := if s.diagValid then some s.diagCode else none
  publish := if s.pubValid then some s.pubValue else none

/-- R9: `step : Config → State → Op → Time → State × Events`, for an operation at an edge at which `now` has this value. -/
def stepOperation (c : Config tw hw) (s : State tw hw) (op : Operation) (now : Time tw) : State tw hw × Events hw :=
  let t := perform c op { s with now := now }
  (t, t.events)

/-- One step over what the host presents, for every instance of the parameters. -/
def stepWith (c : Config tw hw) (s : State tw hw) : Host.Outcome (State tw hw) Fault Refusal :=
  let f := fetch c s
  .next (perform c f.1 f.2)

/-- The machine of an instance of the parameters. -/
def machineOf (c : Config tw hw) : Host.Core where
  State := State tw hw
  Fault := Fault
  Refusal := Refusal
  step := stepWith c
  reset := State.initial c

end Sys2Proof.Machine
end

