-- ==== Sys2Proof/Machine/Step.lean ====
section
/-! DEFINITION. One step: one operation at a clock edge, or one change of the level on the segment port
(spec/00_scope.md R8, R9). -/

namespace Sys2Proof.Machine

def step (s : State) : Host.Outcome State Fault Refusal :=
  match fetch params s with
  | (.run i, s1) => exec i s1
  | (.por cfg, s1) => .next (perform params (.por cfg) s1)
  | (.illegal r, s1) => .next (perform params (.illegal r) s1)
  | (.segOther b, s1) => .next (perform params (.segOther b) s1)

/-- `s` with the host presenting the word next, before whatever it presents after it, at the time the block saw last
(log 14, 15). A word that fits no port (`tablePortWord`) is not presented. -/
def State.withFetchWord (s : State) (nbits w : Nat) : State :=
  match tablePortWord nbits w with
  | some pw => { s with inputs := inputOfPortWord s.now pw :: s.inputs }
  | none => s

end Sys2Proof.Machine
end

