-- ==== Sys2Proof/Machine/Assembler.lean ====
section
/-! DEFINITION. The command-stream syntax of the spec (spec/30_encoding.md R120, R121) as abstract lines, and the inputs the
host presents for them. Reading the characters of a line is outside the model (log 24). -/

namespace Sys2Proof.Machine

variable {tw : Nat}

/-- A mnemonic and its operand (R120), for the commands of R91 in order. -/
inductive AsmOp where
  | nop
  | byte (b : Byte)
  | tick
  | select (t : Tag)
  | detect
  | advance
  | dreset
  | poll
  deriving DecidableEq, Repr

/-- A line: an optional `@<now>`, then a command or `reset cfg=<tag>` (R120). -/
inductive AsmLine (timeWidth : Nat := 32) where
  | command (time : Option (Time timeWidth)) (op : AsmOp)
  | reset (time : Option (Time timeWidth)) (cfg : Tag)
  deriving DecidableEq, Repr

/-- The mnemonic's text (R120). -/
def asmMnemonic : AsmOp → String
  | .nop => "nop"
  | .byte _ => "byte"
  | .tick => "tick"
  | .select _ => "select"
  | .detect => "detect"
  | .advance => "advance"
  | .dreset => "dreset"
  | .poll => "poll"

/-- The command a mnemonic stands for (R120). -/
def instrOfAsm : AsmOp → Instr
  | .nop => .nop
  | .byte b => .byteIn b
  | .tick => .tickCheck
  | .select t => .select t
  | .detect => .startDetect
  | .advance => .advance
  | .dreset => .decReset
  | .poll => .poll

/-- The value on `now` at a line's edge: the one it states, or else the one before it (R120 calls it irrelevant then). -/
def lineTime (before : Time tw) : AsmLine tw → Time tw
  | .command time _ => time.getD before
  | .reset time _ => time.getD before

/-- The edge a line stands for: a command with `cmd_valid` = 1, or `rst` = 1 for one edge (R120). -/
def inputOfLine (before : Time tw) : AsmLine tw → Input tw
  | .command time op => inputOfPortWord (time.getD before) (encode (instrOfAsm op))
  | .reset time cfg => .edge { rst := true, cfgVariant := cfg, cmdValid := false, cmd := 0, now := time.getD before }

/-- What the host presents for a command stream that begins when `now` is `before`. -/
def assemble (before : Time tw) : List (AsmLine tw) → List (Input tw)
  | [] => []
  | l :: ls => inputOfLine before l :: assemble (lineTime before l) ls

/-- `bytes x1, …, xn` (R121). -/
def asmBytes (xs : List Byte) : List (AsmLine tw) := xs.map (fun x => .command none (.byte x))

/-- `badframe b1, b2, b3, b4, c` (R121). -/
def asmBadFrame (b1 b2 b3 b4 c : Byte) : List (AsmLine tw) := asmBytes [0x5A, b1, b2, b3, b4, c]

/-- `frame b1, b2, b3, b4`: a checksum-valid ALZA frame (R121). -/
def asmFrame (b1 b2 b3 b4 : Byte) : List (AsmLine tw) := asmBadFrame b1 b2 b3 b4 (b1 + b2 + b3 + b4)

/-- `ticktime t` (R121). -/
def asmTickTime (t : Time tw) : List (AsmLine tw) := [.command (some t) .tick]

end Sys2Proof.Machine
end

