-- ==== Sys2Proof/WellFormed.lean ====
section
/-! DEFINITION. Well-formedness. Every operand of an instruction has a type of exactly the width its encoding gives it, and
the spec reserves no value of one (R92, R93, R101), so every term of `Instr` is well formed. What can be ill formed is an
instance of the parameters. -/

namespace Sys2Proof

variable {tw hw : Nat}

/-- Written out by constructor, so that a constructor added later has to answer for itself. -/
def Instr.wellFormed : Instr → Bool
  | .nop | .tickCheck | .startDetect | .advance | .decReset | .poll => true
  | .byteIn _ => true
  | .select _ => true
  | .segDigit0 _ | .segDigit1 _ | .segDigit2 _ | .segDigit3 _ | .segDigit4 _ => true
  | .segDigit5 _ | .segDigit6 _ | .segDigit7 _ | .segDigit8 _ | .segDigit9 _ => true

/-- SEG_CODE has ten entries (R12, R13). -/
def Config.tenCodes (c : Config tw hw) : Bool := c.segCode.length == 10

/-- The ten codes are distinct after the mask (R131). -/
def Config.distinctCodes (c : Config tw hw) : Bool := decide (c.segCode.map (fun k => k.setWidth 7)).Nodup

/-- VARIANT_ORDER lists each of the four real variants once (R12, R13, R100). -/
def Config.ordersAllVariants (c : Config tw hw) : Bool := c.variantOrder.length == 4 && decide c.variantOrder.Nodup

/-- SENTINEL is no height a decoder can report: it is negative (R12, R171 O6). -/
def Config.sentinelNegative (c : Config tw hw) : Bool := c.sentinel.msb

/-- HEIGHT_WIDTH holds every height the ALZA decoder can report, 0 to 9990 (R12, R162). -/
def Config.holdsHeights (_ : Config tw hw) : Bool := decide (9990 < 2 ^ (hw - 1))

/-- An instance of the parameters that the rules of the spec can be read with. -/
def Config.wellFormed (c : Config tw hw) : Bool :=
  c.tenCodes && c.distinctCodes && c.ordersAllVariants && c.sentinelNegative && c.holdsHeights

end Sys2Proof
end

