-- ==== Sys2Proof/Safety.lean ====
section
/-! DEFINITION. The terms the statements use: the invariant of the block, the selector's two modes, byte streams through a
frame decoder, the contract of R171, and runs over what the host presents. -/

namespace Sys2Proof

open Machine

variable {tw hw : Nat}

/-! ## Frame decoders over byte streams -/

/-- The decoder's state after a stream of bytes. -/
def FrameDecoder.feed {S : Type} (D : FrameDecoder S hw) : S → List Byte → S
  | s, [] => s
  | s, b :: bs => D.feed (D.step s b).1 bs

/-- What the block can see of a decoder over a stream: the report of each byte, and on a completion the height (R170). -/
def FrameDecoder.trace {S : Type} (D : FrameDecoder S hw) : S → List Byte → List (Report × Option (Option (Reading hw)))
  | _, [] => []
  | s, b :: bs =>
    let r := D.step s b
    let height := match r.2 with
      | .complete => some (D.decode r.1)
      | .quiet | .mismatch => none
    (r.2, height) :: D.trace r.1 bs

/-- The states a decoder scans from: the newly built one and every one that a reset leaves (R159, R171 O5). -/
def FrameDecoder.Scanning {S : Type} (D : FrameDecoder S hw) (s : S) : Prop := s = D.init ∨ ∃ s0, s = D.reset s0

/-- The contract of R171 for a decoder whose checksum-valid frames are `valid` and whose frames with a failed checksum
comparison are `failed`: the byte strings of whole frames. O1, O3, O6's range and O7 hold by the type `FrameDecoder`. -/
structure FrameDecoder.MeetsContract {S : Type} (D : FrameDecoder S hw) (valid failed : List Byte → Prop) : Prop where
  /-- O2: completion is reported only on the byte that ends a checksum-valid frame. -/
  complete_ends_valid : ∀ s xs b, D.Scanning s → (D.step (D.feed s xs) b).2 = .complete →
    ∃ before f, xs ++ [b] = before ++ f ∧ valid f
  /-- O4: a mismatch is reported only on a failed checksum comparison. -/
  mismatch_ends_failed : ∀ s xs b, D.Scanning s → (D.step (D.feed s xs) b).2 = .mismatch →
    ∃ before f, xs ++ [b] = before ++ f ∧ failed f
  /-- O5: after a reset a following valid frame is recognized: complete on its last byte and on none before. -/
  frame_after_reset : ∀ s f, valid f →
    (D.trace (D.reset s) f).map Prod.fst = List.replicate (f.length - 1) .quiet ++ [.complete]

/-- A checksum-valid ALZA frame (R105). -/
def ValidAlzaFrame (f : List Byte) : Prop :=
  ∃ b1 b2 b3 b4 : Byte, f = [0x5A, b1, b2, b3, b4, b1 + b2 + b3 + b4]

/-- An ALZA frame whose last byte is not its checksum (R155). -/
def FailedAlzaFrame (f : List Byte) : Prop :=
  ∃ b1 b2 b3 b4 c : Byte, f = [0x5A, b1, b2, b3, b4, c] ∧ c ≠ b1 + b2 + b3 + b4

/-! ## The invariant -/

/-- R49: `acc` is the sum of the payload bytes of the frame so far. In WAIT_START it is 0, or the sum of the frame just
completed, whose payload the buffer still holds (D11). -/
def AccMatchesFrame (d : AlzaState) : Prop :=
  match d.fstate with
  | .waitStart => d.acc = 0 ∨ d.acc = d.buf.slot0 + d.buf.slot1 + d.buf.slot2 + d.buf.slot3
  | .byte1 => d.acc = 0
  | .byte2 => d.acc = d.buf.slot0
  | .byte3 => d.acc = d.buf.slot0 + d.buf.slot1
  | .byte4 => d.acc = d.buf.slot0 + d.buf.slot1 + d.buf.slot2
  | .checksum => d.acc = d.buf.slot0 + d.buf.slot1 + d.buf.slot2 + d.buf.slot3

/-- R49 for the live decoder: a decoder of another variant has no `acc`. -/
def AccInvariant (s : State tw hw) : Prop :=
  ∀ d, s.dec = .alza d → AccMatchesFrame d

/-- R35: the live decoder is the one of the register `variant`. -/
def OneLiveDecoder (s : State tw hw) : Prop := variantOfDec s.dec = s.variant

/-- R40 with O6 of R171: the sentinel, or a height that is not negative. -/
def HeightLegal (c : Config tw hw) (h : Height hw) : Prop := h = c.sentinel ∨ 0 ≤ h.toInt

/-- R46, R230: the sentinel of POR, or a height that was published, so positive. -/
def PublishedLegal (c : Config tw hw) (h : Height hw) : Prop := h = c.sentinel ∨ 0 < h.toInt

/-- What the event registers can hold together (R36, R243): no code without a valid bit, no value without a valid bit, no
publication beside another event, and beside a completion only UNRECOGNIZED_DIGIT (2). -/
structure EventsCoherent (s : State tw hw) : Prop where
  code_iff_valid : s.diagCode = 0 ↔ s.diagValid = false
  value_only_valid : s.pubValid = false → s.pubValue = 0
  publish_alone : s.pubValid = true → s.frameComplete = false ∧ s.diagValid = false
  published_is_last : s.pubValid = true → s.pubValue = s.lastPub
  beside_completion : s.frameComplete = true → s.diagCode = 0 ∨ s.diagCode = 2

/-- The invariant of the block, over its parameters. -/
structure BlockInvariant (c : Config tw hw) (s : State tw hw) : Prop where
  live : OneLiveDecoder s
  acc : AccInvariant s
  read_legal : HeightLegal c s.lastRead
  pub_legal : PublishedLegal c s.lastPub
  events : EventsCoherent s

/-! ## Digits and heights, transcribed from the tables -/

/-- The code table of R115, transcribed for the statements apart from the one the machine reads. -/
def codeOfDigit (d : Fin 10) : Byte :=
  match d with
  | 0 => 0x3F
  | 1 => 0x06
  | 2 => 0x5B
  | 3 => 0x4F
  | 4 => 0x66
  | 5 => 0x6D
  | 6 => 0x7D
  | 7 => 0x07
  | 8 => 0x7F
  | 9 => 0x6F

/-- R115: a byte decodes to a digit exactly when the byte without its top bit is the digit's code. -/
def ShowsDigit (b : Byte) (d : Fin 10) : Prop := b &&& 0x7F = codeOfDigit d

/-- The same over the parameters: the byte without its top bit is the code SEG_CODE gives the digit (R115, R131). -/
def ShowsCode (c : Config tw hw) (b : Byte) (d : Fin 10) : Prop := b &&& 0x7F = c.segCode.getD d.val 0 &&& 0x7F

/-- The outcome of a segment row: the byte is on `seg_in`, nothing else changes, and the ports show the digit (R130, R132). -/
def OutcomeShows (o : Host.Outcome State Fault Refusal) (s : State) (b : Byte) (d : Fin 10) : Prop :=
  o = .next { s with segIn := b } ∧
  ({ s with segIn := b } : State).outputs.segDigit = BitVec.ofNat 4 d.val ∧
  ({ s with segIn := b } : State).outputs.segOk = true

/-- The state a new decoder of a variant is built in (R159, R170). -/
def freshDecoder : Variant → Dec
  | .alza => .alza ⟨.waitStart, 0x00, ⟨0x00, 0x00, 0x00, 0x00⟩⟩
  | .jarvis => .jarvis Config.openJarvis.init
  | .uplift => .uplift Config.openUplift.init
  | .omnidesk => .omnidesk Config.openOmnidesk.init

/-! ## The selector's modes -/

/-- The mode of the selector (R220). -/
inductive SelectorMode where
  | fixed (v : Variant)
  | probing (v : Variant)
  deriving DecidableEq, Repr

def modeOf (s : State) : SelectorMode := if s.detectActive then .probing s.variant else .fixed s.variant

/-- The milliseconds from one reading of the clock to a later one, mod 2^32, over the integers (R15, R205). -/
def elapsedFrom (start now : Time) : Int := ((now.toNat : Int) - (start.toNat : Int)) % 4294967296

/-! ## Runs -/

/-- `s` with the host presenting `l` next. -/
def presenting (s : State) (l : List Input) : State := { s with inputs := l ++ s.inputs }

/-- The outcome of performing everything in `l`, from `s`. -/
def runInputs (s : State) (l : List Input) : Host.Outcome State Fault Refusal := core.run l.length (presenting s l)

/-- One command of the host at a time. -/
def commandInput (t : Time) (i : Instr) : Input := inputOfPortWord t (encode i)

/-- The ticks of a host whose clock shows these values, with no bytes (R206). -/
def tickInputs (ts : List Time) : List Input := ts.map (fun t => commandInput t .tickCheck)

/-- The drain of one tick: BYTE_IN for each byte, each at its own time on `now` (R10, R206). -/
def byteInputs (l : List (Time × Byte)) : List Input := l.map (fun x => commandInput x.1 (.byteIn x.2))

/-- `s` with these event registers: what only the host can see (R240). -/
def withEvents (s : State tw hw) (fc dv : Bool) (dc : BitVec 3) (pv : Bool) (pval : Height hw) : State tw hw :=
  { s with frameComplete := fc, diagValid := dv, diagCode := dc, pubValid := pv, pubValue := pval }

/-- The combinational port's rows, which are no operation at a clock edge (R130). -/
def isSegRow : Instr → Bool
  | .segDigit0 _ | .segDigit1 _ | .segDigit2 _ | .segDigit3 _ | .segDigit4 _ => true
  | .segDigit5 _ | .segDigit6 _ | .segDigit7 _ | .segDigit8 _ | .segDigit9 _ => true
  | .nop | .byteIn _ | .tickCheck | .select _ | .startDetect | .advance | .decReset | .poll => false

end Sys2Proof
end

