-- ==== Sys2Proof/Certificates/Slice0/Obligations.lean ====
section
/-! DEFINITION. The statements about the model, from the numbered rules of spec/. A next state is written out in full, so each
result statement is also its instruction's frame: every register not named holds what it held. `withEvents s fc dv dc pv pval`
is `s` with those event registers; `openJarvis`, `openUplift` and `openOmnidesk` are the OPEN decoders, of which nothing is
assumed, so a statement that names them holds for every decoder of the type `FrameDecoder Code`. -/

open Sys2Proof Sys2Proof.Machine

/-! ## Encoding -/

/-- Decode and encode agree: each instruction's word decodes to it, with every operand, and each word has one meaning
(R90 to R94, R115). -/
def Obligations.DecodeEncodeAgree : Prop :=
  (∀ i : Instr, decode (encode i) = .ok i) ∧ (∀ (w : PortWord) (i : Instr), decode w = .ok i → encode i = w)

/-- R91, R92, R93: the command rows of the opcode table by match and mask, with the operand fields, and no other word is a
command. -/
def Obligations.CommandRowsByMaskAndMatch : Prop :=
  ∀ w : CmdWord,
    (w &&& 0xFFF = 0x000 → decode (.cmd w) = .ok .nop) ∧
    (w &&& 0xF00 = 0x100 → decode (.cmd w) = .ok (.byteIn (w.extractLsb' 0 8))) ∧
    (w &&& 0xFFF = 0x200 → decode (.cmd w) = .ok .tickCheck) ∧
    (w &&& 0xFF8 = 0x300 → decode (.cmd w) = .ok (.select (w.extractLsb' 0 3))) ∧
    (w &&& 0xFFF = 0x400 → decode (.cmd w) = .ok .startDetect) ∧
    (w &&& 0xFFF = 0x500 → decode (.cmd w) = .ok .advance) ∧
    (w &&& 0xFFF = 0x600 → decode (.cmd w) = .ok .decReset) ∧
    (w &&& 0xFFF = 0x700 → decode (.cmd w) = .ok .poll) ∧
    (∀ i, decode (.cmd w) = .ok i →
      w &&& 0xFFF = 0x000 ∨ w &&& 0xF00 = 0x100 ∨ w &&& 0xFFF = 0x200 ∨ w &&& 0xFF8 = 0x300 ∨
      w &&& 0xFFF = 0x400 ∨ w &&& 0xFFF = 0x500 ∨ w &&& 0xFFF = 0x600 ∨ w &&& 0xFFF = 0x700)

/-- R115: the segment rows by match and mask 0x7F, with bit 7 as the ignored field, and no other byte has a row. -/
def Obligations.SegmentRowsByMaskAndMatch : Prop :=
  ∀ b : Byte,
    (b &&& 0x7F = 0x3F → decode (.seg b) = .ok (.segDigit0 (b.getLsbD 7))) ∧
    (b &&& 0x7F = 0x06 → decode (.seg b) = .ok (.segDigit1 (b.getLsbD 7))) ∧
    (b &&& 0x7F = 0x5B → decode (.seg b) = .ok (.segDigit2 (b.getLsbD 7))) ∧
    (b &&& 0x7F = 0x4F → decode (.seg b) = .ok (.segDigit3 (b.getLsbD 7))) ∧
    (b &&& 0x7F = 0x66 → decode (.seg b) = .ok (.segDigit4 (b.getLsbD 7))) ∧
    (b &&& 0x7F = 0x6D → decode (.seg b) = .ok (.segDigit5 (b.getLsbD 7))) ∧
    (b &&& 0x7F = 0x7D → decode (.seg b) = .ok (.segDigit6 (b.getLsbD 7))) ∧
    (b &&& 0x7F = 0x07 → decode (.seg b) = .ok (.segDigit7 (b.getLsbD 7))) ∧
    (b &&& 0x7F = 0x7F → decode (.seg b) = .ok (.segDigit8 (b.getLsbD 7))) ∧
    (b &&& 0x7F = 0x6F → decode (.seg b) = .ok (.segDigit9 (b.getLsbD 7))) ∧
    ((∃ i, decode (.seg b) = .ok i) ↔ ∃ d, ShowsDigit b d)

/-- A few words written out from the encodings of R91 and R115. -/
def Obligations.SampleWordsDecode : Prop :=
  decode (.cmd 0b0000_00000000) = .ok .nop ∧
  decode (.cmd 0b0001_01011010) = .ok (.byteIn 0x5A) ∧
  decode (.cmd 0b0010_00000000) = .ok .tickCheck ∧
  decode (.cmd 0b0011_00000_100) = .ok (.select 4) ∧
  decode (.cmd 0b0111_00000000) = .ok .poll ∧
  decode (.cmd 0b0010_00000001) = .rejected (.nonzeroArg 2 1) ∧
  decode (.seg 0b1_1011011) = .ok (.segDigit2 true) ∧
  decode (.seg 0b0_1111100) = .rejected (.unrecognizedPattern 0x7C)

/-- R94, R215: exactly the words of (a), (b) and (c) are illegal; presented at an edge, such a word changes no register and
raises ILLEGAL_COMMAND (7), and every other word is run as the instruction it decodes to. -/
def Obligations.IllegalWordsOnlyRaiseDiagnostic : Prop :=
  ∀ (s : State) (e : Edge) (rest : List Input),
    s.inputs = .edge e :: rest → e.rst = false → e.cmdValid = true →
    (((0x8 ≤ (e.cmd.extractLsb' 8 4).toNat) ∨
      ((e.cmd.extractLsb' 8 4).toNat ∈ [0x0, 0x2, 0x4, 0x5, 0x6, 0x7] ∧ e.cmd.extractLsb' 0 8 ≠ 0x00) ∨
      ((e.cmd.extractLsb' 8 4).toNat = 0x3 ∧ e.cmd.extractLsb' 3 5 ≠ 0)) →
      step s = .next (withEvents { s with now := e.now, inputs := rest } false true 7 false 0)) ∧
    (¬((0x8 ≤ (e.cmd.extractLsb' 8 4).toNat) ∨
      ((e.cmd.extractLsb' 8 4).toNat ∈ [0x0, 0x2, 0x4, 0x5, 0x6, 0x7] ∧ e.cmd.extractLsb' 0 8 ≠ 0x00) ∨
      ((e.cmd.extractLsb' 8 4).toNat = 0x3 ∧ e.cmd.extractLsb' 3 5 ≠ 0)) →
      ∃ i, decode (.cmd e.cmd) = .ok i ∧ step s = exec i { s with now := e.now, inputs := rest })

/-- R100, R101: the tags 1 to 4 name the four variants in the order of the probe, and 0, 5, 6 and 7 name none; the next
variant's tag is the tag plus one. -/
def Obligations.TagsNameVariants : Prop :=
  variantOfTag 1 = some .alza ∧ variantOfTag 2 = some .jarvis ∧ variantOfTag 3 = some .uplift ∧
  variantOfTag 4 = some .omnidesk ∧
  (∀ t ∈ [(0 : Tag), 5, 6, 7], variantOfTag t = none) ∧
  (∀ v, variantOfTag (tagOfVariant v) = some v) ∧
  (∀ v, v ≠ lastVariant params → tagOfVariant (nextVariant params v) = tagOfVariant v + 1)

/-- R12: the values of the default instance, and that they are well formed. -/
def Obligations.DefaultParameterValues : Prop :=
  params.startMarkerAlza = 0x5A ∧
  params.segCode = [0x3F, 0x06, 0x5B, 0x4F, 0x66, 0x6D, 0x7D, 0x07, 0x7F, 0x6F] ∧
  params.detectTimeoutMs = 1000 ∧ params.sentinel.toInt = -10 ∧ params.defaultVariant = .alza ∧
  params.variantOrder = [.alza, .jarvis, .uplift, .omnidesk] ∧
  firstVariant params = .alza ∧ lastVariant params = .omnidesk ∧
  params.decJarvis = Config.openJarvis ∧ params.decUplift = Config.openUplift ∧ params.decOmnidesk = Config.openOmnidesk ∧
  (∀ h, params.heightToReal h = (h.toInt : Rat) / 10) ∧
  params.wellFormed = true

/-! ## Stepping -/

/-- A step runs the instruction the host presents: at an edge with `rst` = 0 and `cmd_valid` = 1 the one the word decodes
to, at the edge's time; on the segment port the row of the byte. Around `exec` a step only takes the input off the list. -/
def Obligations.StepRunsPresentedInstruction : Prop :=
  (∀ (s : State) (e : Edge) (rest : List Input) (i : Instr),
    s.inputs = .edge e :: rest → e.rst = false → e.cmdValid = true → decode (.cmd e.cmd) = .ok i →
    step s = exec i { s with now := e.now, inputs := rest }) ∧
  (∀ (s : State) (b : Byte) (rest : List Input) (i : Instr),
    s.inputs = .seg b :: rest → decode (.seg b) = .ok i → step s = exec i { s with inputs := rest })

/-- With nothing presented the edge is idle, which is NOP. The empty list as an idle edge is the model's choice (log 2). -/
def Obligations.NothingPresentedIsIdle : Prop :=
  ∀ s : State, s.inputs = [] → step s = .next (withEvents s false false 0 false 0)

/-- A word of the opcode table, presented by `withFetchWord`, is run by the very next step, in the state it was presented in.
That a program is presented from outside is the model's choice (log 14, 15). -/
def Obligations.FetchWordRunsNext : Prop :=
  ∀ (s : State) (nbits w : Nat) (i : Instr), decodeTableWord nbits w = some i → step (s.withFetchWord nbits w) = exec i s

/-- R95: `rst` wins over everything; without it an edge with `cmd_valid` = 0 is NOP, the same as the command 0x000; and
otherwise the operation is the one `cmd` encodes. -/
def Obligations.ClockEdgePrecedence : Prop :=
  ∀ e : Edge,
    (e.rst = true → edgeOperation params e = .por e.cfgVariant) ∧
    (e.rst = false → e.cmdValid = false →
      edgeOperation params e = .run .nop ∧ edgeOperation params e = edgeOperation params { e with cmdValid := true, cmd := 0x000 }) ∧
    (e.rst = false → e.cmdValid = true →
      (∀ i, decode (.cmd e.cmd) = .ok i → edgeOperation params e = .run i) ∧
      (∀ r, decode (.cmd e.cmd) = .rejected r → edgeOperation params e = .illegal r))

/-- R275: what `cmd_valid` and `cmd` hold at an edge with `rst` = 1 makes no difference, at that edge or later. -/
def Obligations.CommandDuringResetIsLost : Prop :=
  ∀ (s : State) (e : Edge) (rest : List Input) (v : Bool) (w : CmdWord), e.rst = true →
    step { s with inputs := .edge { e with cmdValid := v, cmd := w } :: rest } = step { s with inputs := .edge e :: rest }

/-- R47: `cfg_variant` at an edge with `rst` = 0 has no effect. -/
def Obligations.ConfigurationOnlySampledAtReset : Prop :=
  ∀ (s : State) (e : Edge) (rest : List Input) (g : Tag), e.rst = false →
    step { s with inputs := .edge { e with cfgVariant := g } :: rest } = step { s with inputs := .edge e :: rest }

/-- R45: apart from START_DETECT, TICK_CHECK and ADVANCE (and POR) no instruction samples `now`. -/
def Obligations.NowSampledOnlyBySelector : Prop :=
  ∀ (i : Instr) (s t : State) (x : Time), i ≠ .startDetect → i ≠ .tickCheck → i ≠ .advance →
    exec i s = .next t → exec i { s with now := x } = .next { t with now := x }

/-- Nothing halts the block: whatever the state and whatever the host presents, a step answers a next state, and so does
every instruction (R242, R246, R250). -/
def Obligations.EveryStepAnswersNext : Prop :=
  (∀ s : State, ∃ t, step s = .next t) ∧ (∀ (i : Instr) (s : State), ∃ t, exec i s = .next t)

/-! ## Reset -/

/-- R55, R270, R271: POR at an edge, for every level on `cfg_variant`. -/
def Obligations.PowerOnResetValues : Prop :=
  ∀ (s : State) (e : Edge) (rest : List Input), s.inputs = .edge e :: rest → e.rst = true →
    (e.cfgVariant = 0 → step s = .next
      { variant := .alza, dec := freshDecoder .alza, detectActive := true, probeStart := e.now, lastRead := -10,
        lastPub := -10, frameComplete := false, diagValid := false, diagCode := 0, pubValid := false, pubValue := 0,
        now := e.now, segIn := s.segIn, inputs := rest }) ∧
    (∀ v, e.cfgVariant = tagOfVariant v → step s = .next
      { variant := v, dec := freshDecoder v, detectActive := false, probeStart := 0, lastRead := -10,
        lastPub := -10, frameComplete := false, diagValid := false, diagCode := 0, pubValid := false, pubValue := 0,
        now := e.now, segIn := s.segIn, inputs := rest }) ∧
    (5 ≤ e.cfgVariant.toNat → step s = .next
      { variant := .alza, dec := freshDecoder .alza, detectActive := false, probeStart := 0, lastRead := -10,
        lastPub := -10, frameComplete := false, diagValid := true, diagCode := 3, pubValid := false, pubValue := 0,
        now := e.now, segIn := s.segIn, inputs := rest })

/-- The state after reset is POR with `cfg_variant` = ALZA at time 0, the model's choice of the host's inputs (log 3, 4), and
reset again it is itself. -/
def Obligations.ResetStateIsPorAlza : Prop :=
  ∀ s : State, powerOnReset params (tagOfVariant .alza) { s with now := 0, segIn := 0, inputs := [] } = State.reset

/-- R272: a reset of any length is one POR at its last edge, whatever came before. -/
def Obligations.LongResetIsItsLastEdge : Prop :=
  ∀ (s : State) (es : List Edge) (last : Edge), (∀ e ∈ es, e.rst = true) → last.rst = true →
    runInputs s (es.map Input.edge ++ [Input.edge last]) = runInputs s [Input.edge last]

/-- The invariant of the block holds at reset. -/
def Obligations.ResetMeetsInvariant : Prop := BlockInvariant params State.reset

/-! ## The segment port -/

/-- R130, R132: the ten segment rows, for both values of bit 7, with what the ports show. -/
def Obligations.SegmentRowsShowTheirDigits : Prop :=
  ∀ (s : State) (dp : Bool),
    OutcomeShows (exec (.segDigit0 dp) s) s (if dp then 0xBF else 0x3F) 0 ∧
    OutcomeShows (exec (.segDigit1 dp) s) s (if dp then 0x86 else 0x06) 1 ∧
    OutcomeShows (exec (.segDigit2 dp) s) s (if dp then 0xDB else 0x5B) 2 ∧
    OutcomeShows (exec (.segDigit3 dp) s) s (if dp then 0xCF else 0x4F) 3 ∧
    OutcomeShows (exec (.segDigit4 dp) s) s (if dp then 0xE6 else 0x66) 4 ∧
    OutcomeShows (exec (.segDigit5 dp) s) s (if dp then 0xED else 0x6D) 5 ∧
    OutcomeShows (exec (.segDigit6 dp) s) s (if dp then 0xFD else 0x7D) 6 ∧
    OutcomeShows (exec (.segDigit7 dp) s) s (if dp then 0x87 else 0x07) 7 ∧
    OutcomeShows (exec (.segDigit8 dp) s) s (if dp then 0xFF else 0x7F) 8 ∧
    OutcomeShows (exec (.segDigit9 dp) s) s (if dp then 0xEF else 0x6F) 9

/-- R130, R131, R132: every byte on `seg_in`, with a row or without, changes nothing but the level on the port, and the ports
show its digit, or 0xF with `seg_ok` = 0. That a new level is a step of its own, which changes no register and no event
register, is the model's reading of R130 (DEDUCED, log 11 and 13). -/
def Obligations.SegmentPortAnswersEveryByte : Prop :=
  ∀ (s : State) (b : Byte) (rest : List Input), s.inputs = .seg b :: rest →
    step s = .next { s with segIn := b, inputs := rest } ∧
    (∀ d, ShowsDigit b d →
      ({ s with segIn := b } : State).outputs.segDigit = BitVec.ofNat 4 d.val ∧
      ({ s with segIn := b } : State).outputs.segOk = true) ∧
    ((∀ d, ¬ShowsDigit b d) →
      ({ s with segIn := b } : State).outputs.segDigit = 0xF ∧ ({ s with segIn := b } : State).outputs.segOk = false)

/-- R134: the corner cases of SEGDEC. -/
def Obligations.SegdecCornerCases : Prop :=
  (∀ b : Byte, segDec params b = segDec params (b ^^^ 0x80)) ∧
  (∀ b ∈ [(0x00 : Byte), 0x80, 0x3E, 0x7E, 0x7C, 0x27, 0x67], segDec params b = .unrec) ∧
  segDec params 0xBF = .digit 0 ∧ segDec params 0x86 = .digit 1 ∧ segDec params 0xFF = .digit 8 ∧
  ((List.range 256).filter (fun n => segOkOut (segDec params (BitVec.ofNat 8 n)))).length = 20 ∧
  (∀ (b b' : Byte) (d : Nat), segDec params b = .digit d → segDec params b' = .digit d → b &&& 0x7F = b' &&& 0x7F) ∧
  (∀ d < 10, ∃ b : Byte, segDec params b = .digit d)

/-- R130: the segment port and the clocked block do not see each other. A clock edge leaves `seg_in` alone and does the same
whatever `seg_in` holds, and the segment outputs depend on `seg_in` alone. -/
def Obligations.SegmentPortIndependentOfBlock : Prop :=
  (∀ (s t : State) (e : Edge) (rest : List Input) (x : Byte), s.inputs = .edge e :: rest → step s = .next t →
    t.segIn = s.segIn ∧ step { s with segIn := x } = .next { t with segIn := x }) ∧
  (∀ s s' : State, s.segIn = s'.segIn →
    s.outputs.segDigit = s'.outputs.segDigit ∧ s.outputs.segOk = s'.outputs.segOk)

/-! ## The frame decoder -/

/-- R151, R152, R155: BYTE_IN in every state of the ALZA decoder but a matching checksum, as the table of R156 has it. -/
def Obligations.ByteInAlzaTransitions : Prop :=
  ∀ (s : State) (d : AlzaState) (b : Byte), s.dec = .alza d →
    (d.fstate = .waitStart → b = 0x5A → exec (.byteIn b) s =
      .next (withEvents { s with dec := .alza { d with fstate := .byte1, acc := 0 } } false false 0 false 0)) ∧
    (d.fstate = .waitStart → b ≠ 0x5A → exec (.byteIn b) s = .next (withEvents s false false 0 false 0)) ∧
    (d.fstate = .byte1 → exec (.byteIn b) s = .next (withEvents { s with
      dec := .alza { fstate := .byte2, acc := d.acc + b, buf := { d.buf with slot0 := b } } } false false 0 false 0)) ∧
    (d.fstate = .byte2 → exec (.byteIn b) s = .next (withEvents { s with
      dec := .alza { fstate := .byte3, acc := d.acc + b, buf := { d.buf with slot1 := b } } } false false 0 false 0)) ∧
    (d.fstate = .byte3 → exec (.byteIn b) s = .next (withEvents { s with
      dec := .alza { fstate := .byte4, acc := d.acc + b, buf := { d.buf with slot2 := b } } } false false 0 false 0)) ∧
    (d.fstate = .byte4 → exec (.byteIn b) s = .next (withEvents { s with
      dec := .alza { fstate := .checksum, acc := d.acc + b, buf := { d.buf with slot3 := b } } } false false 0 false 0)) ∧
    (d.fstate = .checksum → b ≠ d.acc → exec (.byteIn b) s =
      .next (withEvents { s with dec := .alza { d with fstate := .waitStart, acc := 0 } } false true 1 false 0))

/-- R154, R157, R160: a matching checksum completes the frame and stores its height, in tenths of a cm by the three digits
and the flag of slot 1, or the sentinel with UNRECOGNIZED_DIGIT (2) where a digit is unrecognized. -/
def Obligations.ByteInAlzaCompletion : Prop :=
  ∀ (s : State) (d : AlzaState), s.dec = .alza d → d.fstate = .checksum →
    (∀ d0 d1 d2 : Fin 10, ShowsDigit d.buf.slot0 d0 → ShowsDigit d.buf.slot1 d1 → ShowsDigit d.buf.slot2 d2 →
      exec (.byteIn d.acc) s = .next (withEvents { s with
        dec := .alza { d with fstate := .waitStart },
        lastRead := if d.buf.slot1.getLsbD 7 then BitVec.ofNat 16 (100 * d0.val + 10 * d1.val + d2.val)
          else BitVec.ofNat 16 (10 * (100 * d0.val + 10 * d1.val + d2.val)) } true false 0 false 0)) ∧
    (((∀ k, ¬ShowsDigit d.buf.slot0 k) ∨ (∀ k, ¬ShowsDigit d.buf.slot1 k) ∨ (∀ k, ¬ShowsDigit d.buf.slot2 k)) →
      exec (.byteIn d.acc) s = .next (withEvents { s with
        dec := .alza { d with fstate := .waitStart }, lastRead := -10 } true true 2 false 0))

/-- R150, R157, R170: BYTE_IN while a decoder of another variant is live, whatever that decoder does. -/
def Obligations.ByteInOpenDecoders : Prop :=
  ∀ (s : State) (k : Code) (b : Byte) (D : FrameDecoder Code) (mk : Code → Dec),
    (D = Config.openJarvis ∧ mk = Dec.jarvis) ∨ (D = Config.openUplift ∧ mk = Dec.uplift) ∨
      (D = Config.openOmnidesk ∧ mk = Dec.omnidesk) →
    s.dec = mk k →
    exec (.byteIn b) s = .next (match (D.step k b).2, D.decode (D.step k b).1 with
      | .quiet, _ => withEvents { s with dec := mk (D.step k b).1 } false false 0 false 0
      | .mismatch, _ => withEvents { s with dec := mk (D.step k b).1 } false true 1 false 0
      | .complete, some h => withEvents { s with dec := mk (D.step k b).1, lastRead := h.setWidth 16 } true false 0 false 0
      | .complete, none => withEvents { s with dec := mk (D.step k b).1, lastRead := -10 } true true 2 false 0)

/-- R158: DEC_RESET sets WAIT_START and a zero accumulator, or applies the open decoder's reset, and changes nothing else. -/
def Obligations.DecResetOnlyResetsFraming : Prop :=
  decode (.cmd 0x600) = .ok .decReset ∧ ∀ s : State,
    (∀ d, s.dec = .alza d → exec .decReset s =
      .next (withEvents { s with dec := .alza { d with fstate := .waitStart, acc := 0 } } false false 0 false 0)) ∧
    (∀ k, s.dec = .jarvis k → exec .decReset s =
      .next (withEvents { s with dec := .jarvis (Config.openJarvis.reset k) } false false 0 false 0)) ∧
    (∀ k, s.dec = .uplift k → exec .decReset s =
      .next (withEvents { s with dec := .uplift (Config.openUplift.reset k) } false false 0 false 0)) ∧
    (∀ k, s.dec = .omnidesk k → exec .decReset s =
      .next (withEvents { s with dec := .omnidesk (Config.openOmnidesk.reset k) } false false 0 false 0))

/-- R161, R162: the height in cm is DOC's formula exactly, with and without the decimal flag, and lies in DOC's range. -/
def Obligations.HeightIsDocFormula : Prop :=
  ∀ (d : AlzaState) (d0 d1 d2 : Fin 10),
    ShowsDigit d.buf.slot0 d0 → ShowsDigit d.buf.slot1 d1 → ShowsDigit d.buf.slot2 d2 →
    (d.buf.slot1.getLsbD 7 = true →
      params.heightToReal (heightOf params (decodeAlza params d)) = (d0.val * 10 + d1.val : Rat) + (d2.val : Rat) / 10 ∧
      (heightOf params (decodeAlza params d)).toInt = 100 * d0.val + 10 * d1.val + d2.val ∧
      (heightOf params (decodeAlza params d)).toInt ≤ 999) ∧
    (d.buf.slot1.getLsbD 7 = false →
      params.heightToReal (heightOf params (decodeAlza params d)) = (d0.val * 100 + d1.val * 10 + d2.val : Rat) ∧
      (heightOf params (decodeAlza params d)).toInt = 10 * (100 * d0.val + 10 * d1.val + d2.val) ∧
      (heightOf params (decodeAlza params d)).toInt ≤ 9990)

/-- R163: the flag bits of slots 0 and 2 and all of slot 3 make no difference to a height. -/
def Obligations.OnlySlotOneCarriesFlag : Prop :=
  ∀ (d : AlzaState) (m : Byte),
    decodeAlza params { d with buf := { d.buf with slot0 := d.buf.slot0 ^^^ 0x80 } } = decodeAlza params d ∧
    decodeAlza params { d with buf := { d.buf with slot2 := d.buf.slot2 ^^^ 0x80 } } = decodeAlza params d ∧
    decodeAlza params { d with buf := { d.buf with slot3 := m } } = decodeAlza params d

/-- R174: the ALZA decoder meets the contract of R171 for the frames of R105, and its heights are at most 9990. O3 and the range
of O6 hold by the types of a report and of a height (DEDUCED, log 7). -/
def Obligations.AlzaMeetsDecoderContract : Prop :=
  (alzaDecoder params).MeetsContract ValidAlzaFrame FailedAlzaFrame ∧
  (∀ d, (alzaDecoder params).decode d = none ↔
    (∀ k, ¬ShowsDigit d.buf.slot0 k) ∨ (∀ k, ¬ShowsDigit d.buf.slot1 k) ∨ (∀ k, ¬ShowsDigit d.buf.slot2 k)) ∧
  (∀ d h, (alzaDecoder params).decode d = some h → h.toNat ≤ 9990)

/-- What a decoder in WAIT_START still holds from before cannot be seen: over every stream of bytes any two of them report
the same and give the same heights (R49, R50; I7, I8). -/
def Obligations.StaleDecoderStateUnobservable : Prop :=
  ∀ (d d' : AlzaState) (bs : List Byte), d.fstate = .waitStart → d'.fstate = .waitStart →
    (alzaDecoder params).trace d bs = (alzaDecoder params).trace d' bs

/-- R286: after the start marker exactly four payload bytes and one checksum byte are taken, whatever their values. -/
def Obligations.FiveBytesFollowTheMarker : Prop :=
  ∀ (d : AlzaState) (b1 b2 b3 b4 c : Byte), d.fstate = .waitStart →
    ((alzaDecoder params).feed d [0x5A]).fstate = .byte1 ∧
    ((alzaDecoder params).feed d [0x5A, b1]).fstate = .byte2 ∧
    ((alzaDecoder params).feed d [0x5A, b1, b2]).fstate = .byte3 ∧
    ((alzaDecoder params).feed d [0x5A, b1, b2, b3]).fstate = .byte4 ∧
    ((alzaDecoder params).feed d [0x5A, b1, b2, b3, b4]).fstate = .checksum ∧
    ((alzaDecoder params).feed d [0x5A, b1, b2, b3, b4, c]).fstate = .waitStart

/-- A whole valid frame, one BYTE_IN an edge, from any state whose ALZA decoder waits for a marker: `frame_complete` after
the sixth byte and after none before, and the height is cached (R105, R121, R156, R157). -/
def Obligations.ValidFrameCompletesOnSixthByte : Prop :=
  ∀ (s : State) (d : AlzaState) (b1 b2 b3 b4 : Byte) (t0 t1 t2 t3 t4 t5 : Time),
    s.dec = .alza d → d.fstate = .waitStart →
    (∀ n, 1 ≤ n → n ≤ 5 → ∃ t, runInputs s ((byteInputs [(t0, 0x5A), (t1, b1), (t2, b2), (t3, b3), (t4, b4)]).take n) = .next t ∧
      t.frameComplete = false ∧ t.lastRead = s.lastRead) ∧
    (∃ t, runInputs s (byteInputs [(t0, 0x5A), (t1, b1), (t2, b2), (t3, b3), (t4, b4), (t5, b1 + b2 + b3 + b4)]) = .next t ∧
      t.frameComplete = true ∧
      t.dec = .alza ⟨.waitStart, b1 + b2 + b3 + b4, ⟨b1, b2, b3, b4⟩⟩ ∧
      (∀ d0 d1 d2 : Fin 10, ShowsDigit b1 d0 → ShowsDigit b2 d1 → ShowsDigit b3 d2 →
        t.lastRead = (if b2.getLsbD 7 then BitVec.ofNat 16 (100 * d0.val + 10 * d1.val + d2.val)
          else BitVec.ofNat 16 (10 * (100 * d0.val + 10 * d1.val + d2.val))) ∧ t.diagValid = false) ∧
      t.variant = s.variant ∧ t.detectActive = s.detectActive ∧ t.probeStart = s.probeStart ∧ t.lastPub = s.lastPub ∧
      t.inputs = s.inputs)

/-- A frame with a wrong checksum byte: no completion at any byte, the height stays, CHECKSUM_MISMATCH (1) is raised, and the
decoder waits for a marker again, even if the wrong byte is 0x5A (R155, R281). -/
def Obligations.BadFrameIsDiscarded : Prop :=
  ∀ (s : State) (d : AlzaState) (b1 b2 b3 b4 c : Byte) (t0 t1 t2 t3 t4 t5 : Time),
    s.dec = .alza d → d.fstate = .waitStart → c ≠ b1 + b2 + b3 + b4 →
    (∀ n, 1 ≤ n → n ≤ 6 → ∃ t,
      runInputs s ((byteInputs [(t0, 0x5A), (t1, b1), (t2, b2), (t3, b3), (t4, b4), (t5, c)]).take n) = .next t ∧
      t.frameComplete = false ∧ t.lastRead = s.lastRead) ∧
    runInputs s (byteInputs [(t0, 0x5A), (t1, b1), (t2, b2), (t3, b3), (t4, b4), (t5, c)]) = .next (withEvents
      { s with dec := .alza ⟨.waitStart, 0, ⟨b1, b2, b3, b4⟩⟩, now := t5 } false true 1 false 0)

/-! ## The selector -/

/-- R210: NOP changes no register and clears the event registers; an edge with `cmd_valid` = 0 does the same. -/
def Obligations.NopOnlyClearsEvents : Prop :=
  (∀ s : State, exec .nop s = .next (withEvents s false false 0 false 0)) ∧
  decode (.cmd 0x000) = .ok .nop ∧
  (∀ (s : State) (e : Edge) (rest : List Input), s.inputs = .edge e :: rest → e.rst = false → e.cmdValid = false →
    step s = .next (withEvents { s with now := e.now, inputs := rest } false false 0 false 0))

/-- R190: SELECT, for all eight tags, with its encoding. -/
def Obligations.SelectInstallsVariant : Prop :=
  ∀ (s : State) (t : Tag), decode (.cmd (0x300 + t.setWidth 12)) = .ok (.select t) ∧
    (∀ v, t = tagOfVariant v →
      exec (.select t) s = .next (withEvents { s with variant := v, dec := freshDecoder v } false false 0 false 0)) ∧
    (t = 0 ∨ 5 ≤ t.toNat →
      exec (.select t) s = .next (withEvents { s with variant := .alza, dec := freshDecoder .alza } false true 3 false 0))

/-- R195: START_DETECT. -/
def Obligations.StartDetectBeginsSession : Prop :=
  decode (.cmd 0x400) = .ok .startDetect ∧ ∀ s : State, exec .startDetect s = .next (withEvents { s with
    variant := .alza, dec := freshDecoder .alza, probeStart := s.now, lastRead := -10, detectActive := true }
    false false 0 false 0)

/-- R200: ADVANCE, on both paths. -/
def Obligations.AdvanceMovesToNextCandidate : Prop :=
  decode (.cmd 0x500) = .ok .advance ∧ ∀ s : State,
    (s.variant = .alza → exec .advance s = .next (withEvents { s with
      variant := .jarvis, dec := freshDecoder .jarvis, probeStart := s.now, lastRead := -10 } false true 6 false 0)) ∧
    (s.variant = .jarvis → exec .advance s = .next (withEvents { s with
      variant := .uplift, dec := freshDecoder .uplift, probeStart := s.now, lastRead := -10 } false true 6 false 0)) ∧
    (s.variant = .uplift → exec .advance s = .next (withEvents { s with
      variant := .omnidesk, dec := freshDecoder .omnidesk, probeStart := s.now, lastRead := -10 } false true 6 false 0)) ∧
    (s.variant = .omnidesk → exec .advance s = .next (withEvents { s with
      variant := .alza, dec := freshDecoder .alza, detectActive := false } false true 4 false 0))

/-- R205: TICK_CHECK. Detection off: no effect. Otherwise a non-sentinel `last_read` confirms, however much time has passed;
else strictly more than 1000 ms performs ADVANCE; else no effect. -/
def Obligations.TickCheckJudgesDetection : Prop :=
  decode (.cmd 0x200) = .ok .tickCheck ∧ ∀ s : State,
    (s.detectActive = false → exec .tickCheck s = .next (withEvents s false false 0 false 0)) ∧
    (s.detectActive = true → s.lastRead ≠ -10 →
      exec .tickCheck s = .next (withEvents { s with detectActive := false } false true 5 false 0)) ∧
    (s.detectActive = true → s.lastRead = -10 → elapsedFrom s.probeStart s.now ≤ 1000 →
      exec .tickCheck s = .next (withEvents s false false 0 false 0)) ∧
    (s.detectActive = true → s.lastRead = -10 → 1000 < elapsedFrom s.probeStart s.now →
      exec .tickCheck s = exec .advance s)

/-- R220: the selector's transition table over its two modes. -/
def Obligations.SelectorModeTransitions : Prop :=
  ∀ (s t : State) (v : Variant),
    (exec .startDetect s = .next t → modeOf t = .probing .alza) ∧
    (∀ u, modeOf s = .fixed v → exec (.select (tagOfVariant u)) s = .next t → modeOf t = .fixed u) ∧
    (∀ u, modeOf s = .probing v → exec (.select (tagOfVariant u)) s = .next t → modeOf t = .probing u) ∧
    (∀ g ∈ [(0 : Tag), 5, 6, 7], modeOf s = .fixed v → exec (.select g) s = .next t → modeOf t = .fixed .alza) ∧
    (∀ g ∈ [(0 : Tag), 5, 6, 7], modeOf s = .probing v → exec (.select g) s = .next t → modeOf t = .probing .alza) ∧
    (modeOf s = .probing v → s.lastRead ≠ -10 → exec .tickCheck s = .next t → modeOf t = .fixed v) ∧
    (∀ u, modeOf s = .probing v → s.lastRead = -10 → 1000 < elapsedFrom s.probeStart s.now →
      tagOfVariant u = tagOfVariant v + 1 → exec .tickCheck s = .next t → modeOf t = .probing u) ∧
    (modeOf s = .probing .omnidesk → s.lastRead = -10 → 1000 < elapsedFrom s.probeStart s.now →
      exec .tickCheck s = .next t → modeOf t = .fixed .alza) ∧
    (modeOf s = .probing v → s.lastRead = -10 → elapsedFrom s.probeStart s.now ≤ 1000 →
      exec .tickCheck s = .next t → modeOf t = .probing v) ∧
    (modeOf s = .fixed v → exec .tickCheck s = .next t → modeOf t = .fixed v) ∧
    (∀ u, modeOf s = .fixed v → tagOfVariant u = tagOfVariant v + 1 → exec .advance s = .next t → modeOf t = .fixed u) ∧
    (∀ u, modeOf s = .probing v → tagOfVariant u = tagOfVariant v + 1 → exec .advance s = .next t → modeOf t = .probing u) ∧
    (modeOf s = .fixed .omnidesk → exec .advance s = .next t → modeOf t = .fixed .alza) ∧
    (modeOf s = .probing .omnidesk → exec .advance s = .next t → modeOf t = .fixed .alza)

/-- R172: SELECT, START_DETECT, ADVANCE (also the one TICK_CHECK performs) and POR leave the decoder newly built for the
variant they leave, so a frame in progress is gone. -/
def Obligations.VariantChangeBuildsFreshDecoder : Prop :=
  ∀ s t : State,
    (∀ g, exec (.select g) s = .next t → t.dec = freshDecoder t.variant) ∧
    (exec .startDetect s = .next t → t.dec = freshDecoder t.variant) ∧
    (exec .advance s = .next t → t.dec = freshDecoder t.variant) ∧
    (exec .tickCheck s = .next t → t.variant ≠ s.variant → t.dec = freshDecoder t.variant) ∧
    (∀ e rest, s.inputs = .edge e :: rest → e.rst = true → step s = .next t → t.dec = freshDecoder t.variant)

/-- Once a tick has confirmed a variant, no later tick changes it, whatever the times (R205, R221 (b)). -/
def Obligations.ConfirmedVariantStays : Prop :=
  ∀ (s : State) (t0 : Time) (ts : List Time), s.detectActive = true → s.lastRead ≠ -10 →
    ∃ t, runInputs s (tickInputs (t0 :: ts)) = .next t ∧
      t.detectActive = false ∧ t.variant = s.variant ∧ t.dec = s.dec ∧ t.lastRead = s.lastRead ∧
      t.probeStart = s.probeStart ∧ t.lastPub = s.lastPub ∧ t.inputs = s.inputs

/-- R221 (a): from START_DETECT, with no bytes and ticks inside each window (any number, at any times that do not exceed it)
and one after it, detection leaves ALZA, JARVIS, UPLIFT and OMNIDESK in turn and ends on the default with
DETECTION_EXHAUSTED (4), `last_read` never having left the sentinel. -/
def Obligations.DetectionWithoutBytesExhausts : Prop :=
  ∀ (s : State) (t0 t1 t2 t3 t4 : Time) (w1 w2 w3 w4 : List Time),
    (∀ x ∈ w1, elapsedFrom t0 x ≤ 1000) → 1000 < elapsedFrom t0 t1 →
    (∀ x ∈ w2, elapsedFrom t1 x ≤ 1000) → 1000 < elapsedFrom t1 t2 →
    (∀ x ∈ w3, elapsedFrom t2 x ≤ 1000) → 1000 < elapsedFrom t2 t3 →
    (∀ x ∈ w4, elapsedFrom t3 x ≤ 1000) → 1000 < elapsedFrom t3 t4 →
    (∃ t, runInputs s (commandInput t0 .startDetect :: tickInputs w1) = .next t ∧
      modeOf t = .probing .alza ∧ t.probeStart = t0 ∧ t.lastRead = -10) ∧
    (∃ t, runInputs s (commandInput t0 .startDetect :: tickInputs (w1 ++ t1 :: w2)) = .next t ∧
      modeOf t = .probing .jarvis ∧ t.probeStart = t1 ∧ t.lastRead = -10) ∧
    (∃ t, runInputs s (commandInput t0 .startDetect :: tickInputs (w1 ++ t1 :: w2 ++ t2 :: w3)) = .next t ∧
      modeOf t = .probing .uplift ∧ t.probeStart = t2 ∧ t.lastRead = -10) ∧
    (∃ t, runInputs s (commandInput t0 .startDetect :: tickInputs (w1 ++ t1 :: w2 ++ t2 :: w3 ++ t3 :: w4)) = .next t ∧
      modeOf t = .probing .omnidesk ∧ t.probeStart = t3 ∧ t.lastRead = -10) ∧
    (∃ t, runInputs s (commandInput t0 .startDetect :: tickInputs (w1 ++ t1 :: w2 ++ t2 :: w3 ++ t3 :: w4 ++ [t4])) = .next t ∧
      modeOf t = .fixed .alza ∧ t.dec = freshDecoder .alza ∧ t.diagCode = 4 ∧ t.lastRead = -10)

/-- R221 (c): a probing session, from any state, ends within four ticks if each comes more than 1000 ms after the one before
it (the first more than 1000 ms after the probe's start). -/
def Obligations.ProbingEndsInFourExpiries : Prop :=
  ∀ (s : State) (t1 t2 t3 t4 : Time), s.detectActive = true →
    1000 < elapsedFrom s.probeStart t1 → 1000 < elapsedFrom t1 t2 → 1000 < elapsedFrom t2 t3 → 1000 < elapsedFrom t3 t4 →
    ∃ n t, n ≤ 4 ∧ runInputs s (tickInputs ([t1, t2, t3, t4].take n)) = .next t ∧ t.detectActive = false

/-- A frame that completes before a check always wins over that check's timeout: whenever BYTE_IN completes a frame with a
height other than the sentinel while detection is active, the next TICK_CHECK, at any time, confirms (R205, R282). -/
def Obligations.CompletedFrameBeatsTimeout : Prop :=
  ∀ (s t : State) (b : Byte) (x : Time), exec (.byteIn b) s = .next t →
    s.detectActive = true → t.frameComplete = true → t.lastRead ≠ -10 →
    exec .tickCheck { t with now := x } =
      .next (withEvents { t with now := x, detectActive := false } false true 5 false 0)

/-- R287: a completed frame with an unrecognized digit leaves the sentinel, whatever was there; then POLL publishes nothing
and TICK_CHECK does not confirm. -/
def Obligations.BadDigitReplacesReading : Prop :=
  ∀ (s t : State) (b : Byte), exec (.byteIn b) s = .next t → t.diagCode = 2 →
    t.frameComplete = true ∧ t.lastRead = -10 ∧
    exec .poll t = .next (withEvents t false false 0 false 0) ∧
    (∀ x u, exec .tickCheck { t with now := x } = .next u → u.diagCode ≠ 5)

/-! ## The publish qualifier -/

/-- R230: POLL. -/
def Obligations.PollPublishesPositiveNewHeight : Prop :=
  decode (.cmd 0x700) = .ok .poll ∧ ∀ s : State,
    (0 < s.lastRead.toInt → s.lastRead ≠ s.lastPub →
      exec .poll s = .next (withEvents { s with lastPub := s.lastRead } false false 0 true s.lastRead)) ∧
    (¬(0 < s.lastRead.toInt ∧ s.lastRead ≠ s.lastPub) →
      exec .poll s = .next (withEvents s false false 0 false 0))

/-- R231: whatever instruction is performed at a clock edge, a published value is positive and differs from the value
published before it (and only POLL publishes). -/
def Obligations.PublishedOnlyPositiveAndNew : Prop :=
  ∀ (i : Instr) (s t : State), isSegRow i = false → exec i s = .next t → t.pubValid = true →
    i = .poll ∧ 0 < t.pubValue.toInt ∧ t.pubValue ≠ s.lastPub ∧ t.lastPub = t.pubValue

/-! ## The whole machine -/

/-- The writers of each register (R51, with R42, R43, R273): where an instruction changes a register, it is one of those the
table names for it. -/
def Obligations.WritersOfEachRegister : Prop :=
  ∀ (i : Instr) (s t : State), exec i s = .next t →
    (t.variant ≠ s.variant → i = .tickCheck ∨ (∃ g, i = .select g) ∨ i = .startDetect ∨ i = .advance) ∧
    (t.dec ≠ s.dec →
      (∃ b, i = .byteIn b) ∨ i = .tickCheck ∨ (∃ g, i = .select g) ∨ i = .startDetect ∨ i = .advance ∨ i = .decReset) ∧
    (t.detectActive ≠ s.detectActive → i = .tickCheck ∨ i = .startDetect ∨ i = .advance) ∧
    (t.probeStart ≠ s.probeStart → i = .tickCheck ∨ i = .startDetect ∨ i = .advance) ∧
    (t.lastRead ≠ s.lastRead → (∃ b, i = .byteIn b ∧ t.frameComplete = true) ∨ i = .startDetect ∨ i = .advance) ∧
    (t.lastPub ≠ s.lastPub → i = .poll) ∧
    (t.segIn ≠ s.segIn → isSegRow i = true) ∧
    (isSegRow i = true → t.frameComplete = s.frameComplete ∧ t.diagValid = s.diagValid ∧ t.diagCode = s.diagCode ∧
      t.pubValid = s.pubValid ∧ t.pubValue = s.pubValue) ∧
    t.now = s.now ∧ t.inputs = s.inputs

/-- When `detect_active` changes, and how (R42): START_DETECT sets it; TICK_CHECK clears it on success or when ADVANCE runs
out of variants; ADVANCE clears it when it runs out of variants. -/
def Obligations.DetectActiveChangesAreNamed : Prop :=
  ∀ (i : Instr) (s t : State), exec i s = .next t → t.detectActive ≠ s.detectActive →
    (i = .startDetect ∧ t.detectActive = true) ∨
    (i = .tickCheck ∧ t.detectActive = false ∧ s.lastRead ≠ -10 ∧ t.diagCode = 5 ∧ t.variant = s.variant) ∨
    ((i = .tickCheck ∨ i = .advance) ∧ t.detectActive = false ∧ s.variant = .omnidesk ∧ t.diagCode = 4 ∧ t.variant = .alza)

/-- R110, R243: which diagnostics each instruction can raise, and that a publication and a completion each exclude the
others. -/
def Obligations.DiagnosticsOfEachInstruction : Prop :=
  ∀ (i : Instr) (s t : State), isSegRow i = false → exec i s = .next t →
    (t.diagValid = false ↔ t.diagCode = 0) ∧
    (t.diagCode = 1 → (∃ b, i = .byteIn b) ∧ t.frameComplete = false ∧ t.lastRead = s.lastRead) ∧
    (t.diagCode = 2 → (∃ b, i = .byteIn b) ∧ t.frameComplete = true ∧ t.lastRead = -10) ∧
    (t.diagCode = 3 → ∃ g, i = .select g ∧ (g = 0 ∨ 5 ≤ g.toNat)) ∧
    (t.diagCode = 4 → (i = .advance ∨ i = .tickCheck) ∧ s.variant = .omnidesk) ∧
    (t.diagCode = 5 → i = .tickCheck ∧ s.detectActive = true) ∧
    (t.diagCode = 6 → (i = .advance ∨ i = .tickCheck) ∧ s.variant ≠ .omnidesk) ∧
    t.diagCode ≠ 7 ∧
    (t.frameComplete = true → ∃ b, i = .byteIn b) ∧
    (t.pubValid = true → i = .poll ∧ t.diagValid = false ∧ t.frameComplete = false)

/-- The event registers are never read (R240): at a clock edge the next state is the same whatever they hold, and on the
segment port they stay what they are. -/
def Obligations.EventRegistersNeverRead : Prop :=
  ∀ (s : State) (fc dv : Bool) (dc : BitVec 3) (pv : Bool) (pval : Height),
    (∀ e rest, s.inputs = .edge e :: rest → step (withEvents s fc dv dc pv pval) = step s) ∧
    (s.inputs = [] → step (withEvents s fc dv dc pv pval) = step s) ∧
    (∀ b rest t, s.inputs = .seg b :: rest → step s = .next t →
      step (withEvents s fc dv dc pv pval) = .next (withEvents t fc dv dc pv pval))

/-- R41: the port `variant` never shows UNKNOWN or an invalid tag. -/
def Obligations.VariantPortShowsRealVariant : Prop :=
  ∀ s : State, 1 ≤ s.outputs.variant.toNat ∧ s.outputs.variant.toNat ≤ 4 ∧
    variantOfTag s.outputs.variant = some s.variant

/-- The invariant of the block is kept by every step, whatever the host presents: one live decoder that agrees with
`variant` (R35), the accumulator invariant (R49), legal heights (R40, R46), coherent event registers (R36, R243). -/
def Obligations.StepKeepsInvariant : Prop :=
  ∀ s t : State, BlockInvariant params s → step s = .next t → BlockInvariant params t

/-! ## Every instance of the parameters

R7 and R12: the block can be re-instantiated. These hold for all widths and every well-formed instance, and the machine that the
statements above are about is the default instance. -/

/-- R9, R12: `step`, `exec`, the decoder, the encoder and the reset state are the default instance of the block over its
parameters, and at an edge a step is the step function of R9 for the operation and the time of the edge. -/
def Obligations.MachineIsDefaultParameters : Prop :=
  (∀ s : State, step s = stepWith params s) ∧
  (∀ (i : Instr) (s : State), exec i s = .next (effect params i s)) ∧
  (∀ w : PortWord, decode w = decodeWith params w) ∧ (∀ i : Instr, encode i = encodeWith params i) ∧
  State.reset = State.initial params ∧
  (∀ (s : State) (e : Edge) (rest : List Input), s.inputs = .edge e :: rest →
    step s = .next (stepOperation params { s with inputs := rest } (edgeOperation params e) e.now).1)

/-- Decode and encode agree whatever the parameters, and each word has one meaning (R91 to R94, R115, R131). -/
def Obligations.DecodeEncodeAgreeForEveryParameters : Prop :=
  ∀ (tw hw : Nat) (c : Config tw hw), c.wellFormed = true →
    (∀ i : Instr, decodeWith c (encodeWith c i) = .ok i) ∧
    (∀ (w : PortWord) (i : Instr), decodeWith c w = .ok i → encodeWith c i = w)

/-- R270, R271: POR for every instance of the parameters and every level on `cfg_variant`. -/
def Obligations.PowerOnResetForEveryParameters : Prop :=
  ∀ (tw hw : Nat) (c : Config tw hw) (s : State tw hw),
    (∀ v r, c.variantOrder = v :: r → powerOnReset c 0 s = withEvents { s with
      variant := v, dec := initDec c v, detectActive := true, probeStart := s.now, lastRead := c.sentinel,
      lastPub := c.sentinel } false false 0 false 0) ∧
    (∀ v, powerOnReset c (tagOfVariant v) s = withEvents { s with
      variant := v, dec := initDec c v, detectActive := false, probeStart := 0, lastRead := c.sentinel,
      lastPub := c.sentinel } false false 0 false 0) ∧
    (∀ g : Tag, 5 ≤ g.toNat → powerOnReset c g s = withEvents { s with
      variant := c.defaultVariant, dec := initDec c c.defaultVariant, detectActive := false, probeStart := 0,
      lastRead := c.sentinel, lastPub := c.sentinel } false true 3 false 0) ∧
    powerOnReset c (tagOfVariant c.defaultVariant) { s with now := 0, segIn := 0, inputs := [] } = State.initial c

/-- R190, R195, R200, R205: the selector for every well-formed instance: which variant is first, next and last is
VARIANT_ORDER's, the fallback is DEFAULT_VARIANT, and the window is DETECT_TIMEOUT_MS, measured mod 2^TIME_WIDTH. -/
def Obligations.SelectorForEveryParameters : Prop :=
  ∀ (tw hw : Nat) (c : Config tw hw) (s : State tw hw), c.wellFormed = true →
    (∀ v r, c.variantOrder = v :: r → effect c .startDetect s = withEvents { s with
      variant := v, dec := initDec c v, probeStart := s.now, lastRead := c.sentinel, detectActive := true }
      false false 0 false 0) ∧
    (∀ g : Tag, g = 0 ∨ 5 ≤ g.toNat → effect c (.select g) s = withEvents { s with
      variant := c.defaultVariant, dec := initDec c c.defaultVariant } false true 3 false 0) ∧
    (∀ l u r, c.variantOrder = l ++ s.variant :: u :: r → effect c .advance s = withEvents { s with
      variant := u, dec := initDec c u, probeStart := s.now, lastRead := c.sentinel } false true 6 false 0) ∧
    (∀ l, c.variantOrder = l ++ [s.variant] → effect c .advance s = withEvents { s with
      variant := c.defaultVariant, dec := initDec c c.defaultVariant, detectActive := false } false true 4 false 0) ∧
    (s.detectActive = true → s.lastRead ≠ c.sentinel →
      effect c .tickCheck s = withEvents { s with detectActive := false } false true 5 false 0) ∧
    (s.detectActive = true → s.lastRead = c.sentinel →
      ((s.now.toNat : Int) - (s.probeStart.toNat : Int)) % 2 ^ tw ≤ (c.detectTimeoutMs.toNat : Int) →
      effect c .tickCheck s = withEvents s false false 0 false 0) ∧
    (s.detectActive = true → s.lastRead = c.sentinel →
      (c.detectTimeoutMs.toNat : Int) < ((s.now.toNat : Int) - (s.probeStart.toNat : Int)) % 2 ^ tw →
      effect c .tickCheck s = effect c .advance s)

/-- R151, R154, R157, R160: framing and height assembly for every well-formed instance: the marker is START_MARKER_ALZA, the
digits are SEG_CODE's, the height has HEIGHT_WIDTH bits, and an unrecognized digit stores SENTINEL. -/
def Obligations.FramingForEveryParameters : Prop :=
  ∀ (tw hw : Nat) (c : Config tw hw) (s : State tw hw) (d : AlzaState), c.wellFormed = true → s.dec = .alza d →
    (d.fstate = .waitStart → effect c (.byteIn c.startMarkerAlza) s =
      withEvents { s with dec := .alza { d with fstate := .byte1, acc := 0 } } false false 0 false 0) ∧
    (∀ b, d.fstate = .waitStart → b ≠ c.startMarkerAlza →
      effect c (.byteIn b) s = withEvents s false false 0 false 0) ∧
    (∀ d0 d1 d2 : Fin 10, d.fstate = .checksum →
      ShowsCode c d.buf.slot0 d0 → ShowsCode c d.buf.slot1 d1 → ShowsCode c d.buf.slot2 d2 →
      effect c (.byteIn d.acc) s = withEvents { s with
        dec := .alza { d with fstate := .waitStart },
        lastRead := if d.buf.slot1.getLsbD 7 then BitVec.ofNat hw (100 * d0.val + 10 * d1.val + d2.val)
          else BitVec.ofNat hw (10 * (100 * d0.val + 10 * d1.val + d2.val)) } true false 0 false 0) ∧
    (d.fstate = .checksum →
      ((∀ k, ¬ShowsCode c d.buf.slot0 k) ∨ (∀ k, ¬ShowsCode c d.buf.slot1 k) ∨ (∀ k, ¬ShowsCode c d.buf.slot2 k)) →
      effect c (.byteIn d.acc) s = withEvents { s with
        dec := .alza { d with fstate := .waitStart }, lastRead := c.sentinel } true true 2 false 0)

/-- The invariant of the block holds at reset and is kept by every step, for every well-formed instance (R35, R40, R49, R230,
R243). -/
def Obligations.StepKeepsInvariantForEveryParameters : Prop :=
  ∀ (tw hw : Nat) (c : Config tw hw), c.wellFormed = true →
    BlockInvariant c (State.initial c) ∧
    (∀ s t : State tw hw, BlockInvariant c s → stepWith c s = .next t → BlockInvariant c t)
end

