-- ==== Sys2Proof/Laws/Encoding.lean ====
section
/-! SUPPORT. The fields of a word, read back from the words they were put into. -/

namespace Sys2Proof

/-! ## Two fields side by side, at any widths -/

theorem extract_low_append {v w : Nat} (a : BitVec v) (b : BitVec w) : (a ++ b).extractLsb' 0 w = b := by
  ext i h
  simp [BitVec.getLsbD_append, h]

theorem extract_high_append {v w : Nat} (a : BitVec v) (b : BitVec w) : (a ++ b).extractLsb' w v = a := by
  ext i h
  simp [BitVec.getLsbD_append, BitVec.getLsbD_eq_getElem h]

theorem append_extract {v w : Nat} (x : BitVec (v + w)) : x.extractLsb' w v ++ x.extractLsb' 0 w = x := by
  simp

/-! ## Command words -/

@[simp] theorem cmdOp_cmdWord (op : BitVec 4) (arg : Byte) : cmdOp (cmdWord op arg) = op := extract_high_append op arg

@[simp] theorem cmdArg_cmdWord (op : BitVec 4) (arg : Byte) : cmdArg (cmdWord op arg) = arg := extract_low_append op arg

/-- Nothing of a command word lies outside its two fields. -/
theorem cmdWord_fields (w : CmdWord) : cmdWord (cmdOp w) (cmdArg w) = w := append_extract (v := 4) (w := 8) w

@[simp] theorem selectBits_append (r : BitVec 5) (t : Tag) : selectBits (r ++ t) = r := extract_high_append r t

@[simp] theorem selectTag_append (r : BitVec 5) (t : Tag) : selectTag (r ++ t) = t := extract_low_append r t

theorem select_fields (arg : Byte) : selectBits arg ++ selectTag arg = arg := append_extract (v := 5) (w := 3) arg

/-! ## Segment bytes -/

@[simp] theorem segPattern_segByte (dp : Bool) (p : Pattern) : segPattern (segByte dp p) = p :=
  extract_low_append (BitVec.ofBool dp) p

@[simp] theorem segTopBit_segByte (dp : Bool) (p : Pattern) : segTopBit (segByte dp p) = dp := by
  have h := extract_high_append (BitVec.ofBool dp) p
  have := congrArg (fun x => BitVec.getLsbD x 0) h
  simpa [segTopBit, segByte] using this

theorem segByte_fields (b : Byte) : segByte (segTopBit b) (segPattern b) = b := by
  have h : BitVec.ofBool (segTopBit b) = b.extractLsb' 7 1 := by
    ext i hi
    have : i = 0 := by omega
    subst this
    simp [segTopBit]
  simpa [segByte, segPattern, h] using append_extract (v := 1) (w := 7) b

end Sys2Proof
end

