-- ==== Sys2Proof/Laws/Params.lean ====
section
/-! SUPPORT. The default instance of the parameters, as the values the operations ask it for. -/

namespace Sys2Proof.Machine

variable {tw hw : Nat}

@[simp] theorem params_startMarkerAlza : params.startMarkerAlza = 0x5A := rfl
@[simp] theorem params_detectTimeoutMs : params.detectTimeoutMs = 1000 := rfl
@[simp] theorem params_sentinel : params.sentinel = -10 := rfl
@[simp] theorem params_defaultVariant : params.defaultVariant = .alza := rfl
@[simp] theorem params_decJarvis : params.decJarvis = Config.openJarvis := rfl
@[simp] theorem params_decUplift : params.decUplift = Config.openUplift := rfl
@[simp] theorem params_decOmnidesk : params.decOmnidesk = Config.openOmnidesk := rfl
@[simp] theorem firstVariant_params : firstVariant params = .alza := rfl
@[simp] theorem lastVariant_params : lastVariant params = .omnidesk := rfl
@[simp] theorem nextVariant_alza : nextVariant params .alza = .jarvis := rfl
@[simp] theorem nextVariant_jarvis : nextVariant params .jarvis = .uplift := rfl
@[simp] theorem nextVariant_uplift : nextVariant params .uplift = .omnidesk := rfl
@[simp] theorem initDec_alza (c : Config tw hw) : initDec c .alza = .alza initAlza := rfl
@[simp] theorem initDec_jarvis : initDec params .jarvis = .jarvis Config.openJarvis.init := rfl
@[simp] theorem initDec_uplift : initDec params .uplift = .uplift Config.openUplift.init := rfl
@[simp] theorem initDec_omnidesk : initDec params .omnidesk = .omnidesk Config.openOmnidesk.init := rfl

/-- The default instance's decoder and encoder go by their short names. -/
theorem decodeWith_params (w : PortWord) : decodeWith params w = decode w := rfl
theorem encodeWith_params (i : Instr) : encodeWith params i = encode i := rfl

/-- A stored height that a decoder reported is not the sentinel: it has 15 bits (O6 of R171). -/
theorem reported_ne_sentinel (h : Reading) : (h.setWidth 16 : Height) ≠ -10 := by
  intro e
  have := congrArg BitVec.toNat e
  have hb := h.isLt
  simp at this
  omega

/-- A stored height is the sentinel exactly when a digit was unrecognized. -/
theorem heightOf_eq_sentinel_iff (o : Option (Reading)) : heightOf params o = -10 ↔ o = none := by
  cases o with
  | none => simp [heightOf]
  | some h => simpa [heightOf] using reported_ne_sentinel h

end Sys2Proof.Machine
end

