-- ==== Sys2Proof/Laws/Heights.lean ====
section
/-! SUPPORT. The digit codec and the height assembly: what SEGDEC answers for a byte that shows a digit and for one that shows
none, and the height three digits make. -/

namespace Sys2Proof.Machine

/-- SEGDEC answers the digit a byte shows (R115, R131). -/
theorem segDec_of_showsDigit : ∀ (b : Byte) (d : Fin 10), ShowsDigit b d → segDec params b = .digit d.val := by
  unfold ShowsDigit
  decide

/-- SEGDEC answers Unrec for a byte that shows no digit (R131). -/
theorem segDec_of_showsNone : ∀ b : Byte, (∀ d, ¬ShowsDigit b d) → segDec params b = .unrec := by
  unfold ShowsDigit
  decide

/-- SEGDEC answers nothing else. -/
theorem showsDigit_of_segDec {b : Byte} {n : Nat} (h : segDec params b = .digit n) :
    ∃ d : Fin 10, d.val = n ∧ ShowsDigit b d := by
  by_cases hd : ∃ d, ShowsDigit b d
  · obtain ⟨d, hd⟩ := hd
    rw [segDec_of_showsDigit b d hd] at h
    exact ⟨d, by simpa using h, hd⟩
  · rw [segDec_of_showsNone b (fun d hh => hd ⟨d, hh⟩)] at h
    exact absurd h (by simp)

theorem assembleDigits_lt (flag : Bool) (d0 d1 d2 : Fin 10) : assembleDigits flag d0.val d1.val d2.val < 32768 := by
  have := d0.isLt
  have := d1.isLt
  have := d2.isLt
  cases flag <;> simp [assembleDigits] <;> omega

/-- A number below 2^15 is stored as itself. -/
theorem stored_ofNat {n : Nat} (h : n < 32768) : (BitVec.ofNat (16 - 1) n).setWidth 16 = BitVec.ofNat 16 n := by
  apply BitVec.eq_of_toNat_eq
  simp
  omega

/-- Three digits make a height (R160). -/
theorem decodeAlza_of_digits {d : AlzaState} {d0 d1 d2 : Fin 10} (h0 : ShowsDigit d.buf.slot0 d0)
    (h1 : ShowsDigit d.buf.slot1 d1) (h2 : ShowsDigit d.buf.slot2 d2) :
    decodeAlza params d = some (BitVec.ofNat (16 - 1) (assembleDigits (decimalFlag d.buf) d0.val d1.val d2.val)) := by
  simp [decodeAlza, segDec_of_showsDigit _ _ h0, segDec_of_showsDigit _ _ h1, segDec_of_showsDigit _ _ h2]

/-- … and the stored height is the assembled number. -/
theorem heightOf_of_digits {d : AlzaState} {d0 d1 d2 : Fin 10} (h0 : ShowsDigit d.buf.slot0 d0)
    (h1 : ShowsDigit d.buf.slot1 d1) (h2 : ShowsDigit d.buf.slot2 d2) :
    heightOf params (decodeAlza params d) =
      BitVec.ofNat 16 (assembleDigits (decimalFlag d.buf) d0.val d1.val d2.val) := by
  rw [decodeAlza_of_digits h0 h1 h2]
  exact stored_ofNat (assembleDigits_lt _ d0 d1 d2)

/-- One unrecognized digit is enough for no height, whatever the flag (R160, R163). -/
theorem decodeAlza_of_unrecognized {d : AlzaState}
    (h : (∀ k, ¬ShowsDigit d.buf.slot0 k) ∨ (∀ k, ¬ShowsDigit d.buf.slot1 k) ∨ (∀ k, ¬ShowsDigit d.buf.slot2 k)) :
    decodeAlza params d = none := by
  rcases h with h | h | h
  · simp [decodeAlza, segDec_of_showsNone _ h]
  · cases h0 : segDec params d.buf.slot0 <;> simp [decodeAlza, segDec_of_showsNone _ h, h0]
  · cases h0 : segDec params d.buf.slot0 <;> cases h1 : segDec params d.buf.slot1 <;>
      simp [decodeAlza, segDec_of_showsNone _ h, h0, h1]

end Sys2Proof.Machine
end

