-- ==== Sys2Proof/Laws/State.lean ====
section
/-! SUPPORT. For each update of the state and each field, what the field holds after the update; and the one-line spec of the
shared updates over the operators of Safety. All true by rfl. -/

namespace Sys2Proof.Machine

variable {tw hw : Nat}

@[simp] theorem State.clearEvents_variant (s : State tw hw) : s.clearEvents.variant = s.variant := rfl
@[simp] theorem State.clearEvents_dec (s : State tw hw) : s.clearEvents.dec = s.dec := rfl
@[simp] theorem State.clearEvents_detectActive (s : State tw hw) : s.clearEvents.detectActive = s.detectActive := rfl
@[simp] theorem State.clearEvents_probeStart (s : State tw hw) : s.clearEvents.probeStart = s.probeStart := rfl
@[simp] theorem State.clearEvents_lastRead (s : State tw hw) : s.clearEvents.lastRead = s.lastRead := rfl
@[simp] theorem State.clearEvents_lastPub (s : State tw hw) : s.clearEvents.lastPub = s.lastPub := rfl
@[simp] theorem State.clearEvents_frameComplete (s : State tw hw) : s.clearEvents.frameComplete = false := rfl
@[simp] theorem State.clearEvents_diagValid (s : State tw hw) : s.clearEvents.diagValid = false := rfl
@[simp] theorem State.clearEvents_diagCode (s : State tw hw) : s.clearEvents.diagCode = 0 := rfl
@[simp] theorem State.clearEvents_pubValid (s : State tw hw) : s.clearEvents.pubValid = false := rfl
@[simp] theorem State.clearEvents_pubValue (s : State tw hw) : s.clearEvents.pubValue = 0 := rfl
@[simp] theorem State.clearEvents_now (s : State tw hw) : s.clearEvents.now = s.now := rfl
@[simp] theorem State.clearEvents_segIn (s : State tw hw) : s.clearEvents.segIn = s.segIn := rfl
@[simp] theorem State.clearEvents_inputs (s : State tw hw) : s.clearEvents.inputs = s.inputs := rfl

@[simp] theorem State.emitFrameComplete_variant (s : State tw hw) : s.emitFrameComplete.variant = s.variant := rfl
@[simp] theorem State.emitFrameComplete_dec (s : State tw hw) : s.emitFrameComplete.dec = s.dec := rfl
@[simp] theorem State.emitFrameComplete_detectActive (s : State tw hw) : s.emitFrameComplete.detectActive = s.detectActive := rfl
@[simp] theorem State.emitFrameComplete_probeStart (s : State tw hw) : s.emitFrameComplete.probeStart = s.probeStart := rfl
@[simp] theorem State.emitFrameComplete_lastRead (s : State tw hw) : s.emitFrameComplete.lastRead = s.lastRead := rfl
@[simp] theorem State.emitFrameComplete_lastPub (s : State tw hw) : s.emitFrameComplete.lastPub = s.lastPub := rfl
@[simp] theorem State.emitFrameComplete_frameComplete (s : State tw hw) : s.emitFrameComplete.frameComplete = true := rfl
@[simp] theorem State.emitFrameComplete_diagValid (s : State tw hw) : s.emitFrameComplete.diagValid = s.diagValid := rfl
@[simp] theorem State.emitFrameComplete_diagCode (s : State tw hw) : s.emitFrameComplete.diagCode = s.diagCode := rfl
@[simp] theorem State.emitFrameComplete_pubValid (s : State tw hw) : s.emitFrameComplete.pubValid = s.pubValid := rfl
@[simp] theorem State.emitFrameComplete_pubValue (s : State tw hw) : s.emitFrameComplete.pubValue = s.pubValue := rfl
@[simp] theorem State.emitFrameComplete_now (s : State tw hw) : s.emitFrameComplete.now = s.now := rfl
@[simp] theorem State.emitFrameComplete_segIn (s : State tw hw) : s.emitFrameComplete.segIn = s.segIn := rfl
@[simp] theorem State.emitFrameComplete_inputs (s : State tw hw) : s.emitFrameComplete.inputs = s.inputs := rfl

@[simp] theorem State.emitDiag_variant (d : Diag) (s : State tw hw) : (s.emitDiag d).variant = s.variant := rfl
@[simp] theorem State.emitDiag_dec (d : Diag) (s : State tw hw) : (s.emitDiag d).dec = s.dec := rfl
@[simp] theorem State.emitDiag_detectActive (d : Diag) (s : State tw hw) : (s.emitDiag d).detectActive = s.detectActive := rfl
@[simp] theorem State.emitDiag_probeStart (d : Diag) (s : State tw hw) : (s.emitDiag d).probeStart = s.probeStart := rfl
@[simp] theorem State.emitDiag_lastRead (d : Diag) (s : State tw hw) : (s.emitDiag d).lastRead = s.lastRead := rfl
@[simp] theorem State.emitDiag_lastPub (d : Diag) (s : State tw hw) : (s.emitDiag d).lastPub = s.lastPub := rfl
@[simp] theorem State.emitDiag_frameComplete (d : Diag) (s : State tw hw) : (s.emitDiag d).frameComplete = s.frameComplete := rfl
@[simp] theorem State.emitDiag_diagValid (d : Diag) (s : State tw hw) : (s.emitDiag d).diagValid = true := rfl
@[simp] theorem State.emitDiag_diagCode (d : Diag) (s : State tw hw) : (s.emitDiag d).diagCode = diagCodeOf d := rfl
@[simp] theorem State.emitDiag_pubValid (d : Diag) (s : State tw hw) : (s.emitDiag d).pubValid = s.pubValid := rfl
@[simp] theorem State.emitDiag_pubValue (d : Diag) (s : State tw hw) : (s.emitDiag d).pubValue = s.pubValue := rfl
@[simp] theorem State.emitDiag_now (d : Diag) (s : State tw hw) : (s.emitDiag d).now = s.now := rfl
@[simp] theorem State.emitDiag_segIn (d : Diag) (s : State tw hw) : (s.emitDiag d).segIn = s.segIn := rfl
@[simp] theorem State.emitDiag_inputs (d : Diag) (s : State tw hw) : (s.emitDiag d).inputs = s.inputs := rfl

@[simp] theorem State.emitPublish_variant (v : Height hw) (s : State tw hw) : (s.emitPublish v).variant = s.variant := rfl
@[simp] theorem State.emitPublish_dec (v : Height hw) (s : State tw hw) : (s.emitPublish v).dec = s.dec := rfl
@[simp] theorem State.emitPublish_detectActive (v : Height hw) (s : State tw hw) : (s.emitPublish v).detectActive = s.detectActive := rfl
@[simp] theorem State.emitPublish_probeStart (v : Height hw) (s : State tw hw) : (s.emitPublish v).probeStart = s.probeStart := rfl
@[simp] theorem State.emitPublish_lastRead (v : Height hw) (s : State tw hw) : (s.emitPublish v).lastRead = s.lastRead := rfl
@[simp] theorem State.emitPublish_lastPub (v : Height hw) (s : State tw hw) : (s.emitPublish v).lastPub = s.lastPub := rfl
@[simp] theorem State.emitPublish_frameComplete (v : Height hw) (s : State tw hw) : (s.emitPublish v).frameComplete = s.frameComplete := rfl
@[simp] theorem State.emitPublish_diagValid (v : Height hw) (s : State tw hw) : (s.emitPublish v).diagValid = s.diagValid := rfl
@[simp] theorem State.emitPublish_diagCode (v : Height hw) (s : State tw hw) : (s.emitPublish v).diagCode = s.diagCode := rfl
@[simp] theorem State.emitPublish_pubValid (v : Height hw) (s : State tw hw) : (s.emitPublish v).pubValid = true := rfl
@[simp] theorem State.emitPublish_pubValue (v : Height hw) (s : State tw hw) : (s.emitPublish v).pubValue = v := rfl
@[simp] theorem State.emitPublish_now (v : Height hw) (s : State tw hw) : (s.emitPublish v).now = s.now := rfl
@[simp] theorem State.emitPublish_segIn (v : Height hw) (s : State tw hw) : (s.emitPublish v).segIn = s.segIn := rfl
@[simp] theorem State.emitPublish_inputs (v : Height hw) (s : State tw hw) : (s.emitPublish v).inputs = s.inputs := rfl

@[simp] theorem State.install_variant (c : Config tw hw) (v : Variant) (s : State tw hw) : (s.install c v).variant = v := rfl
@[simp] theorem State.install_dec (c : Config tw hw) (v : Variant) (s : State tw hw) : (s.install c v).dec = initDec c v := rfl
@[simp] theorem State.install_detectActive (c : Config tw hw) (v : Variant) (s : State tw hw) : (s.install c v).detectActive = s.detectActive := rfl
@[simp] theorem State.install_probeStart (c : Config tw hw) (v : Variant) (s : State tw hw) : (s.install c v).probeStart = s.probeStart := rfl
@[simp] theorem State.install_lastRead (c : Config tw hw) (v : Variant) (s : State tw hw) : (s.install c v).lastRead = s.lastRead := rfl
@[simp] theorem State.install_lastPub (c : Config tw hw) (v : Variant) (s : State tw hw) : (s.install c v).lastPub = s.lastPub := rfl
@[simp] theorem State.install_frameComplete (c : Config tw hw) (v : Variant) (s : State tw hw) : (s.install c v).frameComplete = s.frameComplete := rfl
@[simp] theorem State.install_diagValid (c : Config tw hw) (v : Variant) (s : State tw hw) : (s.install c v).diagValid = s.diagValid := rfl
@[simp] theorem State.install_diagCode (c : Config tw hw) (v : Variant) (s : State tw hw) : (s.install c v).diagCode = s.diagCode := rfl
@[simp] theorem State.install_pubValid (c : Config tw hw) (v : Variant) (s : State tw hw) : (s.install c v).pubValid = s.pubValid := rfl
@[simp] theorem State.install_pubValue (c : Config tw hw) (v : Variant) (s : State tw hw) : (s.install c v).pubValue = s.pubValue := rfl
@[simp] theorem State.install_now (c : Config tw hw) (v : Variant) (s : State tw hw) : (s.install c v).now = s.now := rfl
@[simp] theorem State.install_segIn (c : Config tw hw) (v : Variant) (s : State tw hw) : (s.install c v).segIn = s.segIn := rfl
@[simp] theorem State.install_inputs (c : Config tw hw) (v : Variant) (s : State tw hw) : (s.install c v).inputs = s.inputs := rfl

@[simp] theorem driveSeg_variant (b : Byte) (s : State tw hw) : (driveSeg b s).variant = s.variant := rfl
@[simp] theorem driveSeg_dec (b : Byte) (s : State tw hw) : (driveSeg b s).dec = s.dec := rfl
@[simp] theorem driveSeg_detectActive (b : Byte) (s : State tw hw) : (driveSeg b s).detectActive = s.detectActive := rfl
@[simp] theorem driveSeg_probeStart (b : Byte) (s : State tw hw) : (driveSeg b s).probeStart = s.probeStart := rfl
@[simp] theorem driveSeg_lastRead (b : Byte) (s : State tw hw) : (driveSeg b s).lastRead = s.lastRead := rfl
@[simp] theorem driveSeg_lastPub (b : Byte) (s : State tw hw) : (driveSeg b s).lastPub = s.lastPub := rfl
@[simp] theorem driveSeg_frameComplete (b : Byte) (s : State tw hw) : (driveSeg b s).frameComplete = s.frameComplete := rfl
@[simp] theorem driveSeg_diagValid (b : Byte) (s : State tw hw) : (driveSeg b s).diagValid = s.diagValid := rfl
@[simp] theorem driveSeg_diagCode (b : Byte) (s : State tw hw) : (driveSeg b s).diagCode = s.diagCode := rfl
@[simp] theorem driveSeg_pubValid (b : Byte) (s : State tw hw) : (driveSeg b s).pubValid = s.pubValid := rfl
@[simp] theorem driveSeg_pubValue (b : Byte) (s : State tw hw) : (driveSeg b s).pubValue = s.pubValue := rfl
@[simp] theorem driveSeg_now (b : Byte) (s : State tw hw) : (driveSeg b s).now = s.now := rfl
@[simp] theorem driveSeg_segIn (b : Byte) (s : State tw hw) : (driveSeg b s).segIn = b := rfl
@[simp] theorem driveSeg_inputs (b : Byte) (s : State tw hw) : (driveSeg b s).inputs = s.inputs := rfl

@[simp] theorem withEvents_variant (s : State tw hw) (fc dv : Bool) (dc : BitVec 3) (pv : Bool) (pval : Height hw) :
    (withEvents s fc dv dc pv pval).variant = s.variant := rfl
@[simp] theorem withEvents_dec (s : State tw hw) (fc dv : Bool) (dc : BitVec 3) (pv : Bool) (pval : Height hw) :
    (withEvents s fc dv dc pv pval).dec = s.dec := rfl
@[simp] theorem withEvents_detectActive (s : State tw hw) (fc dv : Bool) (dc : BitVec 3) (pv : Bool) (pval : Height hw) :
    (withEvents s fc dv dc pv pval).detectActive = s.detectActive := rfl
@[simp] theorem withEvents_probeStart (s : State tw hw) (fc dv : Bool) (dc : BitVec 3) (pv : Bool) (pval : Height hw) :
    (withEvents s fc dv dc pv pval).probeStart = s.probeStart := rfl
@[simp] theorem withEvents_lastRead (s : State tw hw) (fc dv : Bool) (dc : BitVec 3) (pv : Bool) (pval : Height hw) :
    (withEvents s fc dv dc pv pval).lastRead = s.lastRead := rfl
@[simp] theorem withEvents_lastPub (s : State tw hw) (fc dv : Bool) (dc : BitVec 3) (pv : Bool) (pval : Height hw) :
    (withEvents s fc dv dc pv pval).lastPub = s.lastPub := rfl
@[simp] theorem withEvents_frameComplete (s : State tw hw) (fc dv : Bool) (dc : BitVec 3) (pv : Bool) (pval : Height hw) :
    (withEvents s fc dv dc pv pval).frameComplete = fc := rfl
@[simp] theorem withEvents_diagValid (s : State tw hw) (fc dv : Bool) (dc : BitVec 3) (pv : Bool) (pval : Height hw) :
    (withEvents s fc dv dc pv pval).diagValid = dv := rfl
@[simp] theorem withEvents_diagCode (s : State tw hw) (fc dv : Bool) (dc : BitVec 3) (pv : Bool) (pval : Height hw) :
    (withEvents s fc dv dc pv pval).diagCode = dc := rfl
@[simp] theorem withEvents_pubValid (s : State tw hw) (fc dv : Bool) (dc : BitVec 3) (pv : Bool) (pval : Height hw) :
    (withEvents s fc dv dc pv pval).pubValid = pv := rfl
@[simp] theorem withEvents_pubValue (s : State tw hw) (fc dv : Bool) (dc : BitVec 3) (pv : Bool) (pval : Height hw) :
    (withEvents s fc dv dc pv pval).pubValue = pval := rfl
@[simp] theorem withEvents_now (s : State tw hw) (fc dv : Bool) (dc : BitVec 3) (pv : Bool) (pval : Height hw) :
    (withEvents s fc dv dc pv pval).now = s.now := rfl
@[simp] theorem withEvents_segIn (s : State tw hw) (fc dv : Bool) (dc : BitVec 3) (pv : Bool) (pval : Height hw) :
    (withEvents s fc dv dc pv pval).segIn = s.segIn := rfl
@[simp] theorem withEvents_inputs (s : State tw hw) (fc dv : Bool) (dc : BitVec 3) (pv : Bool) (pval : Height hw) :
    (withEvents s fc dv dc pv pval).inputs = s.inputs := rfl

/-- The state at an edge at which `now` has this value. Runs are said with it, so that a long run is no nest of record updates. -/
def atTime (s : State tw hw) (t : Time tw) : State tw hw := { s with now := t }

@[simp] theorem atTime_variant (s : State tw hw) (t : Time tw) : (atTime s t).variant = s.variant := rfl
@[simp] theorem atTime_dec (s : State tw hw) (t : Time tw) : (atTime s t).dec = s.dec := rfl
@[simp] theorem atTime_detectActive (s : State tw hw) (t : Time tw) : (atTime s t).detectActive = s.detectActive := rfl
@[simp] theorem atTime_probeStart (s : State tw hw) (t : Time tw) : (atTime s t).probeStart = s.probeStart := rfl
@[simp] theorem atTime_lastRead (s : State tw hw) (t : Time tw) : (atTime s t).lastRead = s.lastRead := rfl
@[simp] theorem atTime_lastPub (s : State tw hw) (t : Time tw) : (atTime s t).lastPub = s.lastPub := rfl
@[simp] theorem atTime_frameComplete (s : State tw hw) (t : Time tw) : (atTime s t).frameComplete = s.frameComplete := rfl
@[simp] theorem atTime_diagValid (s : State tw hw) (t : Time tw) : (atTime s t).diagValid = s.diagValid := rfl
@[simp] theorem atTime_diagCode (s : State tw hw) (t : Time tw) : (atTime s t).diagCode = s.diagCode := rfl
@[simp] theorem atTime_pubValid (s : State tw hw) (t : Time tw) : (atTime s t).pubValid = s.pubValid := rfl
@[simp] theorem atTime_pubValue (s : State tw hw) (t : Time tw) : (atTime s t).pubValue = s.pubValue := rfl
@[simp] theorem atTime_now (s : State tw hw) (t : Time tw) : (atTime s t).now = t := rfl
@[simp] theorem atTime_segIn (s : State tw hw) (t : Time tw) : (atTime s t).segIn = s.segIn := rfl
@[simp] theorem atTime_inputs (s : State tw hw) (t : Time tw) : (atTime s t).inputs = s.inputs := rfl

theorem idle_eq_clearEvents (s : State tw hw) : idle s = s.clearEvents := rfl

/-- Clearing twice is clearing once: what lets TICK_CHECK hand its state to ADVANCE. -/
@[simp] theorem State.clearEvents_clearEvents (s : State tw hw) : s.clearEvents.clearEvents = s.clearEvents := rfl

/-- The event registers never reach an operation: it starts by clearing them. -/
@[simp] theorem clearEvents_withEvents (s : State tw hw) (fc dv : Bool) (dc : BitVec 3) (pv : Bool) (pval : Height hw) :
    (withEvents s fc dv dc pv pval).clearEvents = s.clearEvents := rfl

/-- In the form the statements use. -/
theorem clearEvents_eq_withEvents (s : State tw hw) : s.clearEvents = withEvents s false false 0 false 0 := rfl

theorem presenting_nil (s : State) : presenting s [] = s := rfl

theorem presenting_cons (s : State) (x : Input) (l : List Input) :
    presenting s (x :: l) = { s with inputs := x :: (l ++ s.inputs) } := rfl

end Sys2Proof.Machine
end

