-- ==== Sys2Proof/Laws/Ops.lean ====
section
/-! SUPPORT. For each shared operation, everything it can do, said once: later proofs cite these instead of unfolding it. -/

namespace Sys2Proof.Machine

variable {tw hw : Nat}

/-! ## Frame decoders -/

@[simp] theorem variantOfDec_initDec (c : Config tw hw) (v : Variant) : variantOfDec (initDec c v) = v := by cases v <;> rfl

@[simp] theorem variantOfDec_stepDec (c : Config tw hw) (d : Dec) (b : Byte) :
    variantOfDec (stepDec c d b).1 = variantOfDec d := by cases d <;> rfl

@[simp] theorem variantOfDec_resetDec (c : Config tw hw) (d : Dec) : variantOfDec (resetDec c d) = variantOfDec d := by
  cases d <;> rfl

/-- The rows of R156: where one byte can take the ALZA decoder, and what it reports. -/
theorem stepAlza_cases (c : Config tw hw) (d : AlzaState) (b : Byte) :
    (d.fstate = .waitStart ∧ b = c.startMarkerAlza ∧ stepAlza c d b = ({ d with fstate := .byte1, acc := 0 }, .quiet)) ∨
    (d.fstate = .waitStart ∧ b ≠ c.startMarkerAlza ∧ stepAlza c d b = (d, .quiet)) ∨
    (d.fstate = .byte1 ∧
      stepAlza c d b = ({ fstate := .byte2, acc := d.acc + b, buf := { d.buf with slot0 := b } }, .quiet)) ∨
    (d.fstate = .byte2 ∧
      stepAlza c d b = ({ fstate := .byte3, acc := d.acc + b, buf := { d.buf with slot1 := b } }, .quiet)) ∨
    (d.fstate = .byte3 ∧
      stepAlza c d b = ({ fstate := .byte4, acc := d.acc + b, buf := { d.buf with slot2 := b } }, .quiet)) ∨
    (d.fstate = .byte4 ∧
      stepAlza c d b = ({ fstate := .checksum, acc := d.acc + b, buf := { d.buf with slot3 := b } }, .quiet)) ∨
    (d.fstate = .checksum ∧ b = d.acc ∧ stepAlza c d b = ({ d with fstate := .waitStart }, .complete)) ∨
    (d.fstate = .checksum ∧ b ≠ d.acc ∧ stepAlza c d b = ({ d with fstate := .waitStart, acc := 0 }, .mismatch)) := by
  rcases d with ⟨f, acc, m⟩
  cases f <;> simp [stepAlza]
  · by_cases h : b = c.startMarkerAlza <;> simp [h]
  · by_cases h : b = acc <;> simp [h]

/-- One byte keeps the accumulator invariant (R49). -/
theorem stepAlza_keeps_acc (c : Config tw hw) (d : AlzaState) (b : Byte) (h : AccMatchesFrame d) :
    AccMatchesFrame (stepAlza c d b).1 := by
  rcases stepAlza_cases c d b with ⟨hf, -, e⟩ | ⟨hf, -, e⟩ | ⟨hf, e⟩ | ⟨hf, e⟩ | ⟨hf, e⟩ | ⟨hf, e⟩ | ⟨hf, -, e⟩ | ⟨hf, -, e⟩ <;>
    simp_all [AccMatchesFrame]

/-! ## The operations -/

/-- COMPLETE writes `last_read` and two event registers, and nothing else. -/
theorem complete_cases (c : Config tw hw) (s : State tw hw) :
    (heightOf c (decodeDec c s.dec) = c.sentinel ∧
      complete c s = { s with lastRead := c.sentinel, frameComplete := true, diagValid := true, diagCode := 2 }) ∨
    (heightOf c (decodeDec c s.dec) ≠ c.sentinel ∧
      complete c s = { s with lastRead := heightOf c (decodeDec c s.dec), frameComplete := true }) := by
  by_cases h : heightOf c (decodeDec c s.dec) = c.sentinel
  · exact .inl ⟨h, by simp [complete, h, State.emitFrameComplete, State.emitDiag, diagCodeOf]⟩
  · exact .inr ⟨h, by simp [complete, h, State.emitFrameComplete]⟩

/-- COMPLETE of a frame whose digits are recognized. -/
theorem complete_of_height {s : State} {h : Reading} (hd : decodeDec params s.dec = some h) :
    complete params s = { s with lastRead := h.setWidth 16, frameComplete := true } := by
  have hn : heightOf params (decodeDec params s.dec) ≠ params.sentinel := by
    rw [hd]
    exact reported_ne_sentinel h
  rcases complete_cases params s with ⟨hs, -⟩ | ⟨-, e⟩
  · exact absurd hs hn
  · rw [e, hd]
    rfl

/-- COMPLETE of a frame with an unrecognized digit. -/
theorem complete_of_unrecognized {s : State} (hd : decodeDec params s.dec = none) :
    complete params s = { s with lastRead := -10, frameComplete := true, diagValid := true, diagCode := 2 } := by
  rcases complete_cases params s with ⟨-, e⟩ | ⟨hs, -⟩
  · rw [e]
    rfl
  · rw [hd] at hs
    exact absurd rfl hs

/-- What BYTE_IN can do (R150). -/
theorem consumeByte_cases (c : Config tw hw) (b : Byte) (s : State tw hw) :
    ((stepDec c s.dec b).2 = .quiet ∧ consumeByte c b s = { s.clearEvents with dec := (stepDec c s.dec b).1 }) ∨
    ((stepDec c s.dec b).2 = .mismatch ∧
      consumeByte c b s = { s.clearEvents with dec := (stepDec c s.dec b).1, diagValid := true, diagCode := 1 }) ∨
    ((stepDec c s.dec b).2 = .complete ∧
      consumeByte c b s = complete c { s.clearEvents with dec := (stepDec c s.dec b).1 }) := by
  cases h : (stepDec c s.dec b).2
  · exact .inl ⟨rfl, by simp [consumeByte, h]⟩
  · exact .inr (.inr ⟨rfl, by simp [consumeByte, h]⟩)
  · exact .inr (.inl ⟨rfl, by simp [consumeByte, h, State.emitDiag, diagCodeOf]⟩)

/-- What SELECT can do (R190). -/
theorem selectVariant_cases (c : Config tw hw) (t : Tag) (s : State tw hw) :
    (∃ v, variantOfTag t = some v ∧ selectVariant c t s = s.clearEvents.install c v) ∨
    (variantOfTag t = none ∧
      selectVariant c t s = { s.clearEvents.install c c.defaultVariant with diagValid := true, diagCode := 3 }) := by
  cases h : variantOfTag t with
  | some v => exact .inl ⟨v, rfl, by simp [selectVariant, h]⟩
  | none => exact .inr ⟨rfl, by simp [selectVariant, h, State.emitDiag, diagCodeOf]⟩

/-- What ADVANCE can do (R200). -/
theorem advanceCandidate_cases (c : Config tw hw) (s : State tw hw) :
    (s.variant = lastVariant c ∧
      advanceCandidate c s =
        { s.clearEvents.install c c.defaultVariant with detectActive := false, diagValid := true, diagCode := 4 }) ∨
    (s.variant ≠ lastVariant c ∧
      advanceCandidate c s =
        { s.clearEvents.install c (nextVariant c s.variant) with
          probeStart := s.now, lastRead := c.sentinel, diagValid := true, diagCode := 6 }) := by
  by_cases h : s.variant = lastVariant c
  · exact .inl ⟨h, by simp [advanceCandidate, h, State.emitDiag, diagCodeOf]⟩
  · exact .inr ⟨h, by simp [advanceCandidate, h, State.emitDiag, diagCodeOf]⟩

/-- What TICK_CHECK can do (R205). -/
theorem checkTick_cases (c : Config tw hw) (s : State tw hw) :
    (s.detectActive = false ∧ checkTick c s = s.clearEvents) ∨
    (s.detectActive = true ∧ s.lastRead ≠ c.sentinel ∧
      checkTick c s = { s.clearEvents with detectActive := false, diagValid := true, diagCode := 5 }) ∨
    (s.detectActive = true ∧ s.lastRead = c.sentinel ∧ expired c s = false ∧ checkTick c s = s.clearEvents) ∨
    (s.detectActive = true ∧ s.lastRead = c.sentinel ∧ expired c s = true ∧ checkTick c s = advanceCandidate c s) := by
  by_cases ha : s.detectActive = true
  · by_cases hl : s.lastRead = c.sentinel
    · cases he : expired c s
      · exact .inr (.inr (.inl ⟨ha, hl, rfl, by simp [checkTick, ha, hl, he]⟩))
      · exact .inr (.inr (.inr ⟨ha, hl, rfl, by simp [checkTick, ha, hl, he]⟩))
    · exact .inr (.inl ⟨ha, hl, by simp [checkTick, ha, hl, State.emitDiag, diagCodeOf]⟩)
  · have ha' : s.detectActive = false := by simpa using ha
    exact .inl ⟨ha', by simp [checkTick, ha']⟩

/-- The window's comparison as numbers (R205): strict, and unsigned. -/
theorem expired_params_iff (s : State) : expired params s = true ↔ 1000 < (s.now - s.probeStart).toNat := by
  simp [expired, BitVec.ult]

/-- What POLL can do (R230). -/
theorem pollPublish_cases (s : State tw hw) :
    (0 < s.lastRead.toInt ∧ s.lastRead ≠ s.lastPub ∧
      pollPublish s = { s.clearEvents with pubValid := true, pubValue := s.lastRead, lastPub := s.lastRead }) ∨
    (¬(0 < s.lastRead.toInt ∧ s.lastRead ≠ s.lastPub) ∧ pollPublish s = s.clearEvents) := by
  have hq : qualifies s = true ↔ 0 < s.lastRead.toInt ∧ s.lastRead ≠ s.lastPub := by
    simp [qualifies, BitVec.slt]
  by_cases h : qualifies s = true
  · exact .inl ⟨(hq.1 h).1, (hq.1 h).2, by simp [pollPublish, h, State.emitPublish]⟩
  · exact .inr ⟨fun hh => h (hq.2 hh), by simp [pollPublish, h]⟩

/-- What POR can do (R270, R271), by the level on `cfg_variant`. -/
theorem powerOnReset_cases (c : Config tw hw) (cfg : Tag) (s : State tw hw) :
    (cfg = tagUnknown ∧
      powerOnReset c cfg s =
        { s.clearEvents.install c (firstVariant c) with
          lastRead := c.sentinel, lastPub := c.sentinel, detectActive := true, probeStart := s.now }) ∨
    (∃ v, cfg ≠ tagUnknown ∧ variantOfTag cfg = some v ∧
      powerOnReset c cfg s =
        { s.clearEvents.install c v with
          lastRead := c.sentinel, lastPub := c.sentinel, detectActive := false, probeStart := 0 }) ∨
    (cfg ≠ tagUnknown ∧ variantOfTag cfg = none ∧
      powerOnReset c cfg s =
        { s.clearEvents.install c c.defaultVariant with
          lastRead := c.sentinel, lastPub := c.sentinel, detectActive := false, probeStart := 0,
          diagValid := true, diagCode := 3 }) := by
  by_cases h : cfg = tagUnknown
  · exact .inl ⟨h, by simp [powerOnReset, configApply, startDetection, h, State.install, State.clearEvents]⟩
  · cases hv : variantOfTag cfg with
    | some v =>
      exact .inr (.inl ⟨v, h, rfl, by simp [powerOnReset, configApply, h, hv, State.install, State.clearEvents]⟩)
    | none =>
      exact .inr (.inr ⟨h, rfl, by
        simp [powerOnReset, configApply, h, hv, State.install, State.clearEvents, State.emitDiag, diagCodeOf]⟩)

/-! ## Fetching and stepping -/

/-- The operation at an edge, by the precedence of R95. -/
theorem edgeOperation_cases (e : Edge) :
    (e.rst = true ∧ edgeOperation params e = .por e.cfgVariant) ∨
    (e.rst = false ∧ e.cmdValid = false ∧ edgeOperation params e = .run .nop) ∨
    (∃ i, e.rst = false ∧ e.cmdValid = true ∧ decode (.cmd e.cmd) = .ok i ∧ edgeOperation params e = .run i) ∨
    (∃ r, e.rst = false ∧ e.cmdValid = true ∧ decode (.cmd e.cmd) = .rejected r ∧ edgeOperation params e = .illegal r) := by
  rcases e with ⟨rst, g, v, w, t⟩
  cases rst
  · cases v
    · exact .inr (.inl ⟨rfl, rfl, rfl⟩)
    · cases hd : decode (.cmd w) with
      | ok i => exact .inr (.inr (.inl ⟨i, rfl, rfl, rfl, by simp [edgeOperation, decodeWith_params, hd]⟩))
      | rejected r => exact .inr (.inr (.inr ⟨r, rfl, rfl, rfl, by simp [edgeOperation, decodeWith_params, hd]⟩))
  · exact .inl ⟨rfl, rfl⟩

/-- What a step can do, by what the host presents. -/
theorem step_cases (s : State) :
    (s.inputs = [] ∧ step s = exec .nop s) ∨
    (∃ e rest, s.inputs = .edge e :: rest ∧
      ((e.rst = true ∧ step s = .next (powerOnReset params e.cfgVariant { s with now := e.now, inputs := rest })) ∨
       (e.rst = false ∧ e.cmdValid = false ∧ step s = exec .nop { s with now := e.now, inputs := rest }) ∨
       (∃ i, e.rst = false ∧ e.cmdValid = true ∧ decode (.cmd e.cmd) = .ok i ∧
          step s = exec i { s with now := e.now, inputs := rest }) ∨
       (∃ r, e.rst = false ∧ e.cmdValid = true ∧ decode (.cmd e.cmd) = .rejected r ∧
          step s = .next (illegalCommand { s with now := e.now, inputs := rest })))) ∨
    (∃ b rest, s.inputs = .seg b :: rest ∧
      ((∃ i, decode (.seg b) = .ok i ∧ step s = exec i { s with inputs := rest }) ∨
       (∃ r, decode (.seg b) = .rejected r ∧ step s = .next (driveSeg b { s with inputs := rest })))) := by
  rcases hin : s.inputs with _ | ⟨x, rest⟩
  · exact .inl ⟨rfl, by simp [step, fetch, hin]⟩
  · cases x with
    | edge e =>
      refine .inr (.inl ⟨e, rest, rfl, ?_⟩)
      rcases edgeOperation_cases e with ⟨h, ho⟩ | ⟨h, hv, ho⟩ | ⟨i, h, hv, hd, ho⟩ | ⟨r, h, hv, hd, ho⟩
      · exact .inl ⟨h, by simp [step, fetch, perform, hin, ho]⟩
      · exact .inr (.inl ⟨h, hv, by simp [step, fetch, hin, ho]⟩)
      · exact .inr (.inr (.inl ⟨i, h, hv, hd, by simp [step, fetch, hin, ho]⟩))
      · exact .inr (.inr (.inr ⟨r, h, hv, hd, by simp [step, fetch, perform, hin, ho]⟩))
    | seg b =>
      refine .inr (.inr ⟨b, rest, rfl, ?_⟩)
      cases hd : decode (.seg b) with
      | ok i => exact .inl ⟨i, rfl, by simp [step, fetch, hin, segOperation, decodeWith_params, hd]⟩
      | rejected r => exact .inr ⟨r, rfl, by simp [step, fetch, perform, hin, segOperation, decodeWith_params, hd]⟩

end Sys2Proof.Machine
end

