-- ==== Sys2Proof/Laws/Instances.lean ====
section
/-! SUPPORT. What the operations ask of the parameters, for every well-formed instance: the codes of SEG_CODE, the order of
VARIANT_ORDER, and the range of a height. -/

namespace Sys2Proof.Machine

variable {tw hw : Nat}

/-- What well-formedness says, as propositions. -/
theorem wellFormed_iff (c : Config tw hw) : c.wellFormed = true ↔
    c.segCode.length = 10 ∧ (c.segCode.map segPattern).Nodup ∧ (c.variantOrder.length = 4 ∧ c.variantOrder.Nodup) ∧
      c.sentinel.msb = true ∧ 9990 < 2 ^ (hw - 1) := by
  have hm : (c.segCode.map segPattern) = c.segCode.map (fun k => k.setWidth 7) := by
    have hk : ∀ k : Byte, segPattern k = k.setWidth 7 := by decide
    exact List.map_congr_left (fun k _ => hk k)
  simp [Config.wellFormed, Config.tenCodes, Config.distinctCodes, Config.ordersAllVariants, Config.sentinelNegative,
    Config.holdsHeights, hm, and_assoc]

/-! ## SEGDEC -/

/-- SEGDEC answers Unrec exactly for the patterns outside the codes. -/
theorem segScan_eq_unrec_iff (p : Pattern) (n : Nat) (l : List Byte) :
    segScan p n l = .unrec ↔ p ∉ l.map segPattern := by
  induction l generalizing n with
  | nil => simp [segScan]
  | cons k ks ih =>
    by_cases h : p = segPattern k
    · simp [segScan, h]
    · simp [segScan, h, ih]

/-- With distinct codes SEGDEC answers the place of the code. -/
theorem segScan_of_getElem? {p : Pattern} {l : List Byte} (hn : (l.map segPattern).Nodup) {i : Nat} {k : Byte}
    (hi : l[i]? = some k) (hp : p = segPattern k) (n : Nat) : segScan p n l = .digit (n + i) := by
  induction l generalizing n i with
  | nil => simp at hi
  | cons a as ih =>
    rw [List.map_cons, List.nodup_cons] at hn
    cases i with
    | zero =>
      have : a = k := by simpa using hi
      simp [segScan, hp, this]
    | succ j =>
      have hj : as[j]? = some k := by simpa using hi
      have hne : p ≠ segPattern a := by
        intro e
        exact hn.1 (e ▸ hp ▸ List.mem_map_of_mem (List.mem_of_getElem? hj))
      simp only [segScan, hne, if_false, ih hn.2 hj]
      congr 1
      omega

/-- A digit that SEGDEC answers is the place of a code with the byte's pattern. -/
theorem getElem?_of_segScan {p : Pattern} {l : List Byte} {n d : Nat} (h : segScan p n l = .digit d) :
    ∃ k, n ≤ d ∧ l[d - n]? = some k ∧ p = segPattern k := by
  induction l generalizing n with
  | nil => simp [segScan] at h
  | cons a as ih =>
    by_cases hp : p = segPattern a
    · simp only [segScan, hp, if_true, SegResult.digit.injEq] at h
      exact ⟨a, by omega, by simp [h], hp⟩
    · simp only [segScan, hp, if_false] at h
      obtain ⟨k, hle, hk, he⟩ := ih h
      refine ⟨k, by omega, ?_, he⟩
      rw [show d - n = (d - (n + 1)) + 1 by omega]
      simpa using hk

/-- Two bytes have one pattern exactly when they agree without their top bits. -/
theorem segPattern_eq_iff (b k : Byte) : segPattern b = segPattern k ↔ b &&& 0x7F = k &&& 0x7F := by
  have h : ∀ x : Byte, x &&& 0x7F = (segPattern x).setWidth 8 := by decide
  constructor
  · intro e
    rw [h b, h k, e]
  · intro e
    rw [h b, h k] at e
    have := congrArg (BitVec.setWidth 7) e
    simpa using this

/-- SEGDEC over the parameters (R131): digit `d` exactly when the byte shows the code of `d`. -/
theorem segDec_eq_digit_iff {c : Config tw hw} (hc : c.wellFormed = true) (b : Byte) (d : Fin 10) :
    segDec c b = .digit d.val ↔ ShowsCode c b d := by
  obtain ⟨hl, hn, -⟩ := (wellFormed_iff c).1 hc
  have hd : c.segCode[d.val]? = some c.segCode[d.val] := List.getElem?_eq_getElem (by omega)
  rw [ShowsCode, List.getD_eq_getElem?_getD, hd, Option.getD_some, ← segPattern_eq_iff]
  constructor
  · intro h
    obtain ⟨k, -, hk, hp⟩ := getElem?_of_segScan h
    rw [Nat.sub_zero, hd] at hk
    rw [hp, Option.some.inj hk]
  · intro h
    have e := segScan_of_getElem? hn hd h 0
    rwa [Nat.zero_add] at e

/-- SEGDEC answers Unrec exactly for a byte that shows no code. -/
theorem segDec_eq_unrec_iff {c : Config tw hw} (hc : c.wellFormed = true) (b : Byte) :
    segDec c b = .unrec ↔ ∀ d, ¬ShowsCode c b d := by
  constructor
  · intro h d hs
    rw [← segDec_eq_digit_iff hc, h] at hs
    exact absurd hs (by simp)
  · intro h
    cases hs : segDec c b with
    | unrec => rfl
    | digit n =>
      obtain ⟨k, -, hk, -⟩ := getElem?_of_segScan hs
      have hlt : n < 10 := by
        have := (List.getElem?_eq_some_iff.1 hk).1
        have := ((wellFormed_iff c).1 hc).1
        omega
      exact absurd ((segDec_eq_digit_iff hc b ⟨n, hlt⟩).1 hs) (h _)

/-! ## VARIANT_ORDER -/

theorem firstVariant_of_order {c : Config tw hw} {v : Variant} {r : List Variant} (h : c.variantOrder = v :: r) :
    firstVariant c = v := by simp [firstVariant, h]

theorem lastVariant_of_order {c : Config tw hw} {l : List Variant} {v : Variant} (h : c.variantOrder = l ++ [v]) :
    lastVariant c = v := by simp [lastVariant, h]

/-- The variant after `v`, and that `v` is not the last one. -/
theorem nextVariant_of_order {c : Config tw hw} (hc : c.wellFormed = true) {l r : List Variant} {v u : Variant}
    (h : c.variantOrder = l ++ v :: u :: r) : nextVariant c v = u ∧ v ≠ lastVariant c := by
  have hn : (l ++ v :: u :: r).Nodup := h ▸ ((wellFormed_iff c).1 hc).2.2.1.2
  have hv : v ∉ l := fun hm => (List.disjoint_of_nodup_append hn) hm (by simp)
  have hv' : v ∉ u :: r := (List.nodup_cons.1 (List.nodup_append.1 hn).2.1).1
  constructor
  · have hd : (l ++ v :: u :: r).dropWhile (fun x => x != v) = v :: u :: r := by
      rw [List.dropWhile_append_of_pos (fun x hx => by
        have : x ≠ v := fun e => hv (e ▸ hx)
        simpa using this)]
      simp
    simp [nextVariant, h, hd]
  · have hm : lastVariant c = (u :: r).getLast (by simp) := by
      simp [lastVariant, h, List.getLastD_eq_getLast?, List.getLast?_eq_some_getLast]
    intro e
    rw [e, hm] at hv'
    exact hv' (List.getLast_mem (by simp))

/-! ## Heights -/

/-- A stored height that a decoder reported is not negative. -/
theorem reading_toInt_nonneg (h : Reading hw) : 0 ≤ (h.setWidth hw : Height hw).toInt := by
  cases hw with
  | zero => simp [BitVec.toInt_zero_length]
  | succ n =>
    have hb : h.toNat < 2 ^ n := h.isLt
    have : (h.setWidth (n + 1) : BitVec (n + 1)).toNat < 2 ^ n := by
      rw [BitVec.toNat_setWidth]
      exact lt_of_le_of_lt (Nat.mod_le _ _) hb
    rw [BitVec.toInt_eq_toNat_of_lt (by omega)]
    omega

/-- … so it is not the sentinel of a well-formed instance (R12, O6 of R171). -/
theorem reading_ne_sentinel {c : Config tw hw} (hc : c.wellFormed = true) (h : Reading hw) :
    (h.setWidth hw : Height hw) ≠ c.sentinel := by
  intro e
  have h0 := reading_toInt_nonneg h
  have h1 := BitVec.toInt_neg_of_msb_true ((wellFormed_iff c).1 hc).2.2.2.1
  rw [e] at h0
  omega

/-- A number up to 9990 is stored as itself. -/
theorem stored_reading {c : Config tw hw} (hc : c.wellFormed = true) {n : Nat} (hn : n ≤ 9990) :
    ((BitVec.ofNat (hw - 1) n : Reading hw).setWidth hw : Height hw) = BitVec.ofNat hw n := by
  have hb := ((wellFormed_iff c).1 hc).2.2.2.2
  apply BitVec.eq_of_toNat_eq
  have hle : 2 ^ (hw - 1) ≤ 2 ^ hw := Nat.pow_le_pow_right (by omega) (by omega)
  rw [BitVec.toNat_setWidth, BitVec.toNat_ofNat, BitVec.toNat_ofNat, Nat.mod_eq_of_lt (a := n) (b := 2 ^ (hw - 1)) (by omega)]

/-- COMPLETE with a reported height. -/
theorem complete_of_reading {c : Config tw hw} (hc : c.wellFormed = true) {s : State tw hw} {h : Reading hw}
    (hd : decodeDec c s.dec = some h) : complete c s = { s with lastRead := h.setWidth hw, frameComplete := true } := by
  rcases complete_cases c s with ⟨hs, -⟩ | ⟨-, e⟩
  · rw [hd] at hs
    exact absurd hs (reading_ne_sentinel hc h)
  · rw [e, hd]
    rfl

/-- COMPLETE with an unrecognized digit, whatever the parameters. -/
theorem complete_of_none {c : Config tw hw} {s : State tw hw} (hd : decodeDec c s.dec = none) :
    complete c s = { s with lastRead := c.sentinel, frameComplete := true, diagValid := true, diagCode := 2 } := by
  rcases complete_cases c s with ⟨-, e⟩ | ⟨hs, -⟩
  · exact e
  · rw [hd] at hs
    exact absurd rfl hs

end Sys2Proof.Machine
end

