-- ==== Sys2Proof/Laws/PerInstr.lean ====
section
/-! SUPPORT. Facts about every instruction as syntax, one lemma per constructor. -/

namespace Sys2Proof.Laws.RowOfTable

/-- The row of spec/opcode_table.json an instruction belongs to: the port its word stands on, and the row's match under
the row's mask. -/
def Statement (i : Instr) : Prop :=
  match i, encode i with
  | .nop, .cmd w => w &&& 0xFFF = 0x000
  | .byteIn _, .cmd w => w &&& 0xF00 = 0x100
  | .tickCheck, .cmd w => w &&& 0xFFF = 0x200
  | .select _, .cmd w => w &&& 0xFF8 = 0x300
  | .startDetect, .cmd w => w &&& 0xFFF = 0x400
  | .advance, .cmd w => w &&& 0xFFF = 0x500
  | .decReset, .cmd w => w &&& 0xFFF = 0x600
  | .poll, .cmd w => w &&& 0xFFF = 0x700
  | .segDigit0 _, .seg b => b &&& 0x7F = 0x3F
  | .segDigit1 _, .seg b => b &&& 0x7F = 0x06
  | .segDigit2 _, .seg b => b &&& 0x7F = 0x5B
  | .segDigit3 _, .seg b => b &&& 0x7F = 0x4F
  | .segDigit4 _, .seg b => b &&& 0x7F = 0x66
  | .segDigit5 _, .seg b => b &&& 0x7F = 0x6D
  | .segDigit6 _, .seg b => b &&& 0x7F = 0x7D
  | .segDigit7 _, .seg b => b &&& 0x7F = 0x07
  | .segDigit8 _, .seg b => b &&& 0x7F = 0x7F
  | .segDigit9 _, .seg b => b &&& 0x7F = 0x6F
  | _, _ => False

theorem nop : Statement .nop := by rfl
theorem byteIn (b : Byte) : Statement (.byteIn b) := by
  show cmdWord 0x1 b &&& 0xF00 = 0x100
  revert b
  decide
theorem tickCheck : Statement .tickCheck := by rfl
theorem select (t : Tag) : Statement (.select t) := by
  show cmdWord 0x3 (0#5 ++ t) &&& 0xFF8 = 0x300
  revert t
  decide
theorem startDetect : Statement .startDetect := by rfl
theorem advance : Statement .advance := by rfl
theorem decReset : Statement .decReset := by rfl
theorem poll : Statement .poll := by rfl
theorem segDigit0 (dp : Bool) : Statement (.segDigit0 dp) := by cases dp <;> rfl
theorem segDigit1 (dp : Bool) : Statement (.segDigit1 dp) := by cases dp <;> rfl
theorem segDigit2 (dp : Bool) : Statement (.segDigit2 dp) := by cases dp <;> rfl
theorem segDigit3 (dp : Bool) : Statement (.segDigit3 dp) := by cases dp <;> rfl
theorem segDigit4 (dp : Bool) : Statement (.segDigit4 dp) := by cases dp <;> rfl
theorem segDigit5 (dp : Bool) : Statement (.segDigit5 dp) := by cases dp <;> rfl
theorem segDigit6 (dp : Bool) : Statement (.segDigit6 dp) := by cases dp <;> rfl
theorem segDigit7 (dp : Bool) : Statement (.segDigit7 dp) := by cases dp <;> rfl
theorem segDigit8 (dp : Bool) : Statement (.segDigit8 dp) := by cases dp <;> rfl
theorem segDigit9 (dp : Bool) : Statement (.segDigit9 dp) := by cases dp <;> rfl

end Sys2Proof.Laws.RowOfTable
end

