-- ==== Sys2Proof/Laws/Runs.lean ====
section
/-! SUPPORT. Instructions as functions of the state, and runs over what the host presents, one input at a time. -/

namespace Sys2Proof.Machine

variable {tw hw : Nat}

theorem exec_eq_effect (i : Instr) (s : State) : exec i s = .next (effect params i s) := by cases i <;> rfl

theorem exec_next_iff {i : Instr} {s t : State} : exec i s = .next t ↔ effect params i s = t := by
  rw [exec_eq_effect]
  exact ⟨fun h => Host.Outcome.next.inj h, fun h => h ▸ rfl⟩

/-! ### What an operation does not read

Setting `inputs` or `segIn` before an operation is setting it after. -/

theorem consumeByte_inputs (c : Config tw hw) (b : Byte) (s : State tw hw) (l : List (Input tw)) :
    consumeByte c b { s with inputs := l } = { consumeByte c b s with inputs := l } := by
  by_cases hs : heightOf c (decodeDec c (stepDec c s.dec b).1) = c.sentinel <;>
    cases h : (stepDec c s.dec b).2 <;> simp only [consumeByte, h, complete, hs, if_true, if_false] <;> rfl

theorem consumeByte_segIn (c : Config tw hw) (b : Byte) (s : State tw hw) (x : Byte) :
    consumeByte c b { s with segIn := x } = { consumeByte c b s with segIn := x } := by
  by_cases hs : heightOf c (decodeDec c (stepDec c s.dec b).1) = c.sentinel <;>
    cases h : (stepDec c s.dec b).2 <;> simp only [consumeByte, h, complete, hs, if_true, if_false] <;> rfl

theorem advanceCandidate_inputs (c : Config tw hw) (s : State tw hw) (l : List (Input tw)) :
    advanceCandidate c { s with inputs := l } = { advanceCandidate c s with inputs := l } := by
  by_cases h : s.variant = lastVariant c <;> simp only [advanceCandidate, h, if_true, if_false] <;> rfl

theorem advanceCandidate_segIn (c : Config tw hw) (s : State tw hw) (x : Byte) :
    advanceCandidate c { s with segIn := x } = { advanceCandidate c s with segIn := x } := by
  by_cases h : s.variant = lastVariant c <;> simp only [advanceCandidate, h, if_true, if_false] <;> rfl

theorem checkTick_inputs (c : Config tw hw) (s : State tw hw) (l : List (Input tw)) :
    checkTick c { s with inputs := l } = { checkTick c s with inputs := l } := by
  rcases checkTick_cases c s with ⟨h, e⟩ | ⟨h, h1, e⟩ | ⟨h, h1, h2, e⟩ | ⟨h, h1, h2, e⟩ <;>
    rcases checkTick_cases c { s with inputs := l } with ⟨g, e'⟩ | ⟨g, g1, e'⟩ | ⟨g, g1, g2, e'⟩ | ⟨g, g1, g2, e'⟩ <;>
    rw [e, e'] <;>
    first
      | rfl
      | exact advanceCandidate_inputs c s l
      | exact absurd h1 g1
      | exact absurd g1 h1
      | exact Bool.noConfusion (h.symm.trans g)
      | exact Bool.noConfusion (h2.symm.trans g2)

theorem checkTick_segIn (c : Config tw hw) (s : State tw hw) (x : Byte) :
    checkTick c { s with segIn := x } = { checkTick c s with segIn := x } := by
  rcases checkTick_cases c s with ⟨h, e⟩ | ⟨h, h1, e⟩ | ⟨h, h1, h2, e⟩ | ⟨h, h1, h2, e⟩ <;>
    rcases checkTick_cases c { s with segIn := x } with ⟨g, e'⟩ | ⟨g, g1, e'⟩ | ⟨g, g1, g2, e'⟩ | ⟨g, g1, g2, e'⟩ <;>
    rw [e, e'] <;>
    first
      | rfl
      | exact advanceCandidate_segIn c s x
      | exact absurd h1 g1
      | exact absurd g1 h1
      | exact Bool.noConfusion (h.symm.trans g)
      | exact Bool.noConfusion (h2.symm.trans g2)

theorem selectVariant_inputs (c : Config tw hw) (t : Tag) (s : State tw hw) (l : List (Input tw)) :
    selectVariant c t { s with inputs := l } = { selectVariant c t s with inputs := l } := by
  cases h : variantOfTag t <;> simp only [selectVariant, h] <;> rfl

theorem selectVariant_segIn (c : Config tw hw) (t : Tag) (s : State tw hw) (x : Byte) :
    selectVariant c t { s with segIn := x } = { selectVariant c t s with segIn := x } := by
  cases h : variantOfTag t <;> simp only [selectVariant, h] <;> rfl

theorem pollPublish_inputs (s : State tw hw) (l : List (Input tw)) :
    pollPublish { s with inputs := l } = { pollPublish s with inputs := l } := by
  have he : qualifies { s with inputs := l } = qualifies s := rfl
  cases h : qualifies s <;> simp only [pollPublish, he, h] <;> rfl

theorem pollPublish_segIn (s : State tw hw) (x : Byte) :
    pollPublish { s with segIn := x } = { pollPublish s with segIn := x } := by
  have he : qualifies { s with segIn := x } = qualifies s := rfl
  cases h : qualifies s <;> simp only [pollPublish, he, h] <;> rfl

/-- No instruction reads or writes `inputs`. -/
theorem effect_inputs (c : Config tw hw) (i : Instr) (s : State tw hw) (l : List (Input tw)) :
    effect c i { s with inputs := l } = { effect c i s with inputs := l } := by
  cases i with
  | byteIn b => exact consumeByte_inputs c b s l
  | advance => exact advanceCandidate_inputs c s l
  | tickCheck => exact checkTick_inputs c s l
  | select t => exact selectVariant_inputs c t s l
  | poll => exact pollPublish_inputs s l
  | _ => rfl

/-- No command reads or writes `segIn` (R130). -/
theorem effect_segIn (c : Config tw hw) {i : Instr} (h : isSegRow i = false) (s : State tw hw) (x : Byte) :
    effect c i { s with segIn := x } = { effect c i s with segIn := x } := by
  cases i with
  | byteIn b => exact consumeByte_segIn c b s x
  | advance => exact advanceCandidate_segIn c s x
  | tickCheck => exact checkTick_segIn c s x
  | select t => exact selectVariant_segIn c t s x
  | poll => exact pollPublish_segIn s x
  | nop => rfl
  | startDetect => rfl
  | decReset => rfl
  | _ => exact absurd h (by simp [isSegRow])

theorem effect_keeps_inputs (c : Config tw hw) (i : Instr) (s : State tw hw) : (effect c i s).inputs = s.inputs := by
  have h : effect c i s = { effect c i s with inputs := s.inputs } := effect_inputs c i s s.inputs
  rw [h]

/-- A command's own word decodes to it. -/
theorem decode_encode_command {i : Instr} (h : isSegRow i = false) :
    ∃ w, encode i = .cmd w ∧ decode (.cmd w) = .ok i := by
  cases i <;> first
    | exact ⟨_, rfl, by simp [decode, decodeWith, decodeCmd, decodeNoOperand]⟩
    | exact absurd h (by simp [isSegRow])

theorem runInputs_nil (s : State) : runInputs s [] = .next s := rfl

theorem runInputs_of_step {s t : State} {x : Input} (l : List Input)
    (h : step (presenting s (x :: l)) = .next (presenting t l)) : runInputs s (x :: l) = runInputs t l := by
  have e : core.step (presenting s (x :: l)) = .next (presenting t l) := h
  simp only [runInputs, List.length_cons, Host.Core.run, e]
  rfl

/-- A run over a command: the command's effect at its time, then the rest. -/
theorem runInputs_command (s : State) (t : Time) {i : Instr} (h : isSegRow i = false) (l : List Input) :
    runInputs s (commandInput t i :: l) = runInputs (effect params i (atTime s t)) l := by
  apply runInputs_of_step
  obtain ⟨w, hw, hd⟩ := decode_encode_command h
  have hs : step (presenting s (commandInput t i :: l)) = exec i { presenting s l with now := t } := by
    simp [step, fetch, presenting, commandInput, hw, inputOfPortWord, edgeOperation, decodeWith_params, hd]
  rw [hs, exec_eq_effect]
  have e : effect params i { presenting s l with now := t } = { effect params i (atTime s t) with inputs := l ++ s.inputs } :=
    effect_inputs params i (atTime s t) (l ++ s.inputs)
  rw [e]
  simp [presenting, effect_keeps_inputs]

/-- A run over an edge with `rst` = 1. -/
theorem runInputs_reset (s : State) (e : Edge) (h : e.rst = true) (l : List Input) :
    runInputs s (.edge e :: l) = runInputs (powerOnReset params e.cfgVariant (atTime s e.now)) l := by
  apply runInputs_of_step
  have hs : step (presenting s (.edge e :: l)) =
      .next (powerOnReset params e.cfgVariant { presenting s l with now := e.now }) := by
    simp [step, fetch, perform, presenting, edgeOperation, h]
  rw [hs]
  unfold powerOnReset configApply
  split
  · rfl
  · cases variantOfTag e.cfgVariant <;> rfl

end Sys2Proof.Machine
end

