-- ==== Sys2Proof/Tests/Slice0.lean ====
section
/-! SUPPORT. Tests of the model, each with its expected value from spec/ (spec/95_test_vectors.md unless it says otherwise), and
for each statement with hypotheses a witness: a concrete state and operands that meet them. -/

namespace Sys2Proof.Tests

open Machine

/-! ## Helpers -/

/-- The state an outcome goes on in. -/
def nextOf : Host.Outcome State Fault Refusal → Option State
  | .next t => some t
  | .fault _ => none
  | .refused _ => none

/-- `S_fixA` with this ALZA decoder and this `last_read`. -/
def alzaAt (f : FState) (acc b0 b1 b2 b3 : Byte) (lr : Height) : State :=
  { State.reset with dec := .alza ⟨f, acc, ⟨b0, b1, b2, b3⟩⟩, lastRead := lr }

/-- A probing session. -/
def probingAt (v : Variant) (ps : Time) (lr : Height) (now : Time) : State :=
  { State.reset with variant := v, dec := freshDecoder v, detectActive := true, probeStart := ps, lastRead := lr, now := now }

/-- Detection off. -/
def fixedAt (v : Variant) (lr : Height) (now : Time) : State :=
  { State.reset with variant := v, dec := freshDecoder v, lastRead := lr, now := now }

/-- `dec`, `frame_complete`, `diag_code` and `last_read`. -/
def frameView (o : Host.Outcome State Fault Refusal) : Option (Dec × Bool × BitVec 3 × Height) :=
  (nextOf o).map (fun t => (t.dec, t.frameComplete, t.diagCode, t.lastRead))

/-- `variant`, `detect_active`, `probe_start`, `last_read` and `diag_code`. -/
def selectorView (o : Host.Outcome State Fault Refusal) : Option (Variant × Bool × Time × Height × BitVec 3) :=
  (nextOf o).map (fun t => (t.variant, t.detectActive, t.probeStart, t.lastRead, t.diagCode))

/-- `pub_valid`, `pub_value` and `last_pub`. -/
def publishView (o : Host.Outcome State Fault Refusal) : Option (Bool × Height × Height) :=
  (nextOf o).map (fun t => (t.pubValid, t.pubValue, t.lastPub))

/-- `seg_digit` and `seg_ok`. -/
def segView (o : Host.Outcome State Fault Refusal) : Option (BitVec 4 × Bool) :=
  (nextOf o).map (fun t => (t.outputs.segDigit, t.outputs.segOk))

/-- The block at reset with one edge presented. -/
def presented (rst : Bool) (cfg : Tag) (valid : Bool) (w : CmdWord) (now : Time) : State :=
  { State.reset with inputs := [.edge ⟨rst, cfg, valid, w, now⟩] }

/-! ## Well-formedness: an ill-formed instance for each check, refused -/

theorem test_params_wellFormed : params.wellFormed = true := by decide

theorem test_refuse_nine_codes :
    Config.wellFormed { params with segCode := [0x3F, 0x06, 0x5B, 0x4F, 0x66, 0x6D, 0x7D, 0x07, 0x7F] } = false := by decide

/-- 0xBF is 0x3F under the mask. -/
theorem test_refuse_equal_codes :
    Config.wellFormed { params with segCode := [0x3F, 0xBF, 0x5B, 0x4F, 0x66, 0x6D, 0x7D, 0x07, 0x7F, 0x6F] } = false := by decide

theorem test_refuse_variant_listed_twice :
    Config.wellFormed { params with variantOrder := [.alza, .jarvis, .jarvis, .omnidesk] } = false := by decide

theorem test_refuse_sentinel_that_is_a_height : Config.wellFormed { params with sentinel := 0 } = false := by decide

/-- Twelve bits do not hold 9990. -/
def narrow : Config 32 12 where
  startMarkerAlza := 0x5A
  segCode := params.segCode
  detectTimeoutMs := 1000
  sentinel := -10
  defaultVariant := .alza
  variantOrder := params.variantOrder
  decJarvis := ⟨0, fun k _ => (k, .quiet), id, fun _ => none⟩
  decUplift := ⟨0, fun k _ => (k, .quiet), id, fun _ => none⟩
  decOmnidesk := ⟨0, fun k _ => (k, .quiet), id, fun _ => none⟩
  heightToReal := fun h => (h.toInt : Rat) / 10

theorem test_refuse_narrow_heights : narrow.wellFormed = false := by decide

theorem test_every_instruction_wellFormed (i : Instr) : i.wellFormed = true := by cases i <;> rfl

/-! ## Decoding: words written out from R90, R91, R93 and R115 -/

theorem test_decode_nop : decode (.cmd 0b0000_0000_0000) = .ok .nop := by decide
theorem test_decode_byteIn : decode (.cmd 0b0001_1011_0000) = .ok (.byteIn 0xB0) := by decide
theorem test_decode_tickCheck : decode (.cmd 0b0010_0000_0000) = .ok .tickCheck := by decide
theorem test_decode_select : decode (.cmd 0b0011_00000_101) = .ok (.select 5) := by decide
theorem test_decode_startDetect : decode (.cmd 0b0100_0000_0000) = .ok .startDetect := by decide
theorem test_decode_advance : decode (.cmd 0b0101_0000_0000) = .ok .advance := by decide
theorem test_decode_decReset : decode (.cmd 0b0110_0000_0000) = .ok .decReset := by decide
theorem test_decode_poll : decode (.cmd 0b0111_0000_0000) = .ok .poll := by decide
theorem test_decode_segDigit0 : decode (.seg 0b0_0111111) = .ok (.segDigit0 false) := by decide
theorem test_decode_segDigit1 : decode (.seg 0b1_0000110) = .ok (.segDigit1 true) := by decide
theorem test_decode_segDigit2 : decode (.seg 0b0_1011011) = .ok (.segDigit2 false) := by decide
theorem test_decode_segDigit3 : decode (.seg 0b1_1001111) = .ok (.segDigit3 true) := by decide
theorem test_decode_segDigit4 : decode (.seg 0b0_1100110) = .ok (.segDigit4 false) := by decide
theorem test_decode_segDigit5 : decode (.seg 0b1_1101101) = .ok (.segDigit5 true) := by decide
theorem test_decode_segDigit6 : decode (.seg 0b0_1111101) = .ok (.segDigit6 false) := by decide
theorem test_decode_segDigit7 : decode (.seg 0b1_0000111) = .ok (.segDigit7 true) := by decide
theorem test_decode_segDigit8 : decode (.seg 0b0_1111111) = .ok (.segDigit8 false) := by decide
theorem test_decode_segDigit9 : decode (.seg 0b1_1101111) = .ok (.segDigit9 true) := by decide

/-- R94 (a), (b), (c), and V19. -/
theorem test_reject_illegal_words :
    decode (.cmd 0x800) = .rejected (.reservedOp 8) ∧ decode (.cmd 0xFFF) = .rejected (.reservedOp 15) ∧
    decode (.cmd 0x201) = .rejected (.nonzeroArg 2 0x01) ∧ decode (.cmd 0x0FF) = .rejected (.nonzeroArg 0 0xFF) ∧
    decode (.cmd 0x6FF) = .rejected (.nonzeroArg 6 0xFF) ∧ decode (.cmd 0x308) = .rejected (.nonzeroSelectBits 1) := by decide

/-- S-00, S-80, S-3E, S-7E, S-7C, S-27, S-67, S-4E. -/
theorem test_reject_segment_patterns :
    ([0x00, 0x80, 0x3E, 0x7E, 0x7C, 0x27, 0x67, 0x4E] : List Byte).map (fun b => (decode (.seg b)).toOption) =
      [none, none, none, none, none, none, none, none] := by decide

/-- The words as spec/opcode_table.json numbers them: a command in two bytes, a segment pattern in one. -/
theorem test_table_words :
    decodeTableWord 16 0x15A = some (.byteIn 0x5A) ∧ decodeTableWord 12 0x700 = some .poll ∧
    decodeTableWord 8 0xBF = some (.segDigit0 true) ∧ decodeTableWord 16 0x1000 = none ∧ decodeTableWord 8 0x100 = none ∧
    decodeTableWord 16 0x308 = none := by decide

/-! ## The instructions -/

/-- V18: the events are gone and nothing else has changed. -/
theorem test_nop_clears_events :
    nextOf (exec .nop { alzaAt .byte2 0x06 0x06 0x00 0x00 0x00 1230 with
      frameComplete := true, diagValid := true, diagCode := 2, pubValid := true, pubValue := 5 }) =
    some (alzaAt .byte2 0x06 0x06 0x00 0x00 0x00 1230) := by decide

/-- F10: a valid reading is replaced by the sentinel. -/
theorem test_byteIn_bad_digit : frameView (exec (.byteIn 0xAF) (alzaAt .checksum 0xAF 0x06 0x5B 0x4E 0x00 1230)) =
    some (.alza ⟨.waitStart, 0xAF, ⟨0x06, 0x5B, 0x4E, 0x00⟩⟩, true, 2, -10) := by decide

/-- E3: the flag of slot 1. -/
theorem test_byteIn_decimal_flag : frameView (exec (.byteIn 0x30) (alzaAt .checksum 0x30 0x06 0xDB 0x4F 0x00 1230)) =
    some (.alza ⟨.waitStart, 0x30, ⟨0x06, 0xDB, 0x4F, 0x00⟩⟩, true, 0, 123) := by decide

/-- V14: the elapsed time wraps. -/
theorem test_tickCheck_wraps : selectorView (exec .tickCheck (probingAt .alza 0xFFFFFF00 (-10) 745)) =
    some (.jarvis, true, 745, -10, 6) := by decide

/-- V13: a zero height confirms, and success wins over the timeout. -/
theorem test_tickCheck_zero_confirms : selectorView (exec .tickCheck (probingAt .alza 0 0 999999)) =
    some (.alza, false, 0, 0, 5) := by decide

/-- V4: the session goes on. -/
theorem test_select_while_probing : selectorView (exec (.select 4) (probingAt .jarvis 1001 (-10) 1500)) =
    some (.omnidesk, true, 1001, -10, 0) := by decide

/-- V3, R101: the largest invalid tag. -/
theorem test_select_invalid_tag : selectorView (exec (.select 7) (probingAt .jarvis 1001 (-10) 1500)) =
    some (.alza, true, 1001, -10, 3) := by decide

/-- V5. -/
theorem test_startDetect : selectorView (exec .startDetect (fixedAt .alza 1230 7000)) =
    some (.alza, true, 7000, -10, 0) := by decide

/-- V9: detection stays off. -/
theorem test_advance_fixed : selectorView (exec .advance (fixedAt .alza 1230 50)) = some (.jarvis, false, 50, -10, 6) := by decide

/-- V10: `last_read` stays. -/
theorem test_advance_exhausted : selectorView (exec .advance (fixedAt .omnidesk 1230 50)) =
    some (.alza, false, 0, 1230, 4) := by decide

/-- F7: the buffer stays. -/
theorem test_decReset : frameView (exec .decReset (alzaAt .byte3 0x7E 0x3F 0x3F 0x00 0x00 1230)) =
    some (.alza ⟨.waitStart, 0x00, ⟨0x3F, 0x3F, 0x00, 0x00⟩⟩, false, 0, 1230) := by decide

/-- Q6. -/
theorem test_poll_publishes : publishView (exec .poll { fixedAt .alza 123 0 with lastPub := 1230 }) = some (true, 123, 123) := by
  decide

/-- Q4: the sentinel is not published. -/
theorem test_poll_sentinel : publishView (exec .poll { fixedAt .alza (-10) 0 with lastPub := 1230 }) =
    some (false, 0, 1230) := by decide

/-- S-3F. -/
theorem test_segDigit0 : segView (exec (.segDigit0 false) State.reset) = some (0, true) := by decide
/-- S-86. -/
theorem test_segDigit1 : segView (exec (.segDigit1 true) State.reset) = some (1, true) := by decide
/-- S-DB. -/
theorem test_segDigit2 : segView (exec (.segDigit2 true) State.reset) = some (2, true) := by decide
/-- S-CF. -/
theorem test_segDigit3 : segView (exec (.segDigit3 true) State.reset) = some (3, true) := by decide
/-- S-66. -/
theorem test_segDigit4 : segView (exec (.segDigit4 false) State.reset) = some (4, true) := by decide
/-- S-6D. -/
theorem test_segDigit5 : segView (exec (.segDigit5 false) State.reset) = some (5, true) := by decide
/-- S-7D. -/
theorem test_segDigit6 : segView (exec (.segDigit6 false) State.reset) = some (6, true) := by decide
/-- S-07. -/
theorem test_segDigit7 : segView (exec (.segDigit7 false) State.reset) = some (7, true) := by decide
/-- S-FF. -/
theorem test_segDigit8 : segView (exec (.segDigit8 true) State.reset) = some (8, true) := by decide
/-- S-EF. -/
theorem test_segDigit9 : segView (exec (.segDigit9 true) State.reset) = some (9, true) := by decide

/-! ## Steps -/

/-- R-0: detection starts in the same edge. -/
theorem test_reset_unknown : selectorView (step (presented true 0 false 0x000 250)) = some (.alza, true, 250, -10, 0) := by decide

/-- R-4. -/
theorem test_reset_omnidesk : selectorView (step (presented true 4 false 0x000 250)) = some (.omnidesk, false, 0, -10, 0) := by
  decide

/-- R-5, and R-C: the command is dropped. -/
theorem test_reset_invalid_drops_command :
    selectorView (step (presented true 7 true 0x15A 250)) = some (.alza, false, 0, -10, 3) ∧
    frameView (step (presented true 7 true 0x15A 250)) =
      some (.alza ⟨.waitStart, 0x00, ⟨0x00, 0x00, 0x00, 0x00⟩⟩, false, 3, -10) := by decide

/-- V20: an illegal word does not disturb a frame. -/
theorem test_illegal_word :
    frameView (step { alzaAt .checksum 0xB0 0x06 0x5B 0x4F 0x00 (-10) with inputs := [.edge ⟨false, 0, true, 0x701, 0⟩] }) =
    some (.alza ⟨.checksum, 0xB0, ⟨0x06, 0x5B, 0x4F, 0x00⟩⟩, false, 7, -10) := by decide

/-- E2 row 7, presented by the host's word. -/
theorem test_withFetchWord :
    frameView (step ((alzaAt .waitStart 0x00 0x06 0x5B 0x4F 0x00 (-10)).withFetchWord 16 0x15A)) =
    some (.alza ⟨.byte1, 0x00, ⟨0x06, 0x5B, 0x4F, 0x00⟩⟩, false, 0, -10) := by decide

/-- S-7C, S-00. -/
theorem test_unrecognized_segments :
    segView (step { State.reset with inputs := [.seg 0x7C] }) = some (0xF, false) ∧
    segView (step { State.reset with inputs := [.seg 0x00] }) = some (0xF, false) := by decide

/-- R120, R121: `frame 66, 7F, 7D, 01` is the words of P4, and its checksum 0x63. -/
theorem test_assemble_frame :
    assemble (7 : Time) (asmFrame 0x66 0x7F 0x7D 0x01) =
      ([0x15A, 0x166, 0x17F, 0x17D, 0x101, 0x163] : List CmdWord).map (fun w => .edge ⟨false, 0, true, w, 7⟩) := by decide

/-! ## Another instance (R7, R12): every parameter another value, the widths too -/

/-- The codes of 8 and 9 exchanged, the order reversed, a clock of 20 bits and heights of 24. -/
def audited : Config 20 24 where
  startMarkerAlza := 0xA5
  segCode := [0x3F, 0x06, 0x5B, 0x4F, 0x66, 0x6D, 0x7D, 0x07, 0x6F, 0x7F]
  detectTimeoutMs := 500
  sentinel := -1
  defaultVariant := .uplift
  variantOrder := [.omnidesk, .uplift, .jarvis, .alza]
  decJarvis := ⟨0, fun k _ => (k, .quiet), id, fun _ => none⟩
  decUplift := ⟨0, fun k _ => (k, .quiet), id, fun _ => none⟩
  decOmnidesk := ⟨0, fun k _ => (k, .quiet), id, fun _ => none⟩
  heightToReal := fun h => (h.toInt : Rat)

theorem test_audited_wellFormed : audited.wellFormed = true := by decide

theorem test_audited_codes : decodeWith audited (.seg 0x6F) = .ok (.segDigit8 false) ∧
    encodeWith audited (.segDigit9 true) = .seg 0xFF := by decide

theorem test_audited_initial : (State.initial audited).variant = .uplift ∧ (State.initial audited).lastRead.toInt = -1 := by
  decide

theorem test_audited_marker :
    (effect audited (.byteIn 0xA5) { State.initial audited with dec := .alza initAlza }).dec =
      .alza { initAlza with fstate := .byte1 } ∧
    (effect audited (.byteIn 0x5A) { State.initial audited with dec := .alza initAlza }).dec = .alza initAlza := by decide

/-- 400 − (2^20 − 101) is 501 mod 2^20, which is more than 500; then JARVIS follows UPLIFT. -/
theorem test_audited_window :
    (effect audited .tickCheck { State.initial audited with detectActive := true, probeStart := 1048475, now := 400 }).variant =
      .jarvis ∧
    (effect audited .tickCheck { State.initial audited with detectActive := true, probeStart := 1048475, now := 399 }).variant =
      .uplift := by decide

/-! ## Witnesses

One for each statement with hypotheses, clause by clause. -/

theorem witness_DecodeEncodeAgree :
    decode (.cmd 0x1FF) = .ok (.byteIn 0xFF) ∧ decode (.cmd 0x307) = .ok (.select 7) ∧
    decode (.seg 0xEF) = .ok (.segDigit9 true) := by decide

theorem witness_CommandRowsByMaskAndMatch :
    (0x000 : CmdWord) &&& 0xFFF = 0x000 ∧ (0x100 : CmdWord) &&& 0xF00 = 0x100 ∧ (0x1FF : CmdWord) &&& 0xF00 = 0x100 ∧
    (0x200 : CmdWord) &&& 0xFFF = 0x200 ∧ (0x300 : CmdWord) &&& 0xFF8 = 0x300 ∧ (0x307 : CmdWord) &&& 0xFF8 = 0x300 ∧
    (0x400 : CmdWord) &&& 0xFFF = 0x400 ∧ (0x500 : CmdWord) &&& 0xFFF = 0x500 ∧ (0x600 : CmdWord) &&& 0xFFF = 0x600 ∧
    (0x700 : CmdWord) &&& 0xFFF = 0x700 ∧ decode (.cmd 0x700) = .ok .poll := by decide

theorem witness_SegmentRowsByMaskAndMatch :
    (0xBF : Byte) &&& 0x7F = 0x3F ∧ (0x06 : Byte) &&& 0x7F = 0x06 ∧ (0xDB : Byte) &&& 0x7F = 0x5B ∧
    (0x4F : Byte) &&& 0x7F = 0x4F ∧ (0xE6 : Byte) &&& 0x7F = 0x66 ∧ (0x6D : Byte) &&& 0x7F = 0x6D ∧
    (0xFD : Byte) &&& 0x7F = 0x7D ∧ (0x07 : Byte) &&& 0x7F = 0x07 ∧ (0xFF : Byte) &&& 0x7F = 0x7F ∧
    (0x6F : Byte) &&& 0x7F = 0x6F := by decide

/-- Legal and illegal words at the edges of (a), (b) and (c). -/
theorem witness_IllegalWordsOnlyRaiseDiagnostic :
    (presented false 0 true 0x800 0).inputs = [.edge ⟨false, 0, true, 0x800, 0⟩] ∧
    (0x8 ≤ ((0x800 : CmdWord).extractLsb' 8 4).toNat ∧ 0x8 ≤ ((0xFFF : CmdWord).extractLsb' 8 4).toNat) ∧
    (((0x001 : CmdWord).extractLsb' 8 4).toNat ∈ [0x0, 0x2, 0x4, 0x5, 0x6, 0x7] ∧ (0x001 : CmdWord).extractLsb' 0 8 ≠ 0x00) ∧
    (((0x7FF : CmdWord).extractLsb' 8 4).toNat ∈ [0x0, 0x2, 0x4, 0x5, 0x6, 0x7] ∧ (0x7FF : CmdWord).extractLsb' 0 8 ≠ 0x00) ∧
    (((0x308 : CmdWord).extractLsb' 8 4).toNat = 0x3 ∧ (0x308 : CmdWord).extractLsb' 3 5 ≠ 0) ∧
    (∀ w ∈ ([0x000, 0x1FF, 0x307, 0x700] : List CmdWord),
      ¬((0x8 ≤ (w.extractLsb' 8 4).toNat) ∨
        ((w.extractLsb' 8 4).toNat ∈ [0x0, 0x2, 0x4, 0x5, 0x6, 0x7] ∧ w.extractLsb' 0 8 ≠ 0x00) ∨
        ((w.extractLsb' 8 4).toNat = 0x3 ∧ w.extractLsb' 3 5 ≠ 0))) := by decide

theorem witness_TagsNameVariants :
    Variant.alza ≠ lastVariant params ∧ Variant.jarvis ≠ lastVariant params ∧ Variant.uplift ≠ lastVariant params := by decide

theorem witness_StepRunsPresentedInstruction :
    (presented false 3 true 0x15A 42).inputs = .edge ⟨false, 3, true, 0x15A, 42⟩ :: [] ∧
    decode (.cmd 0x15A) = .ok (.byteIn 0x5A) ∧
    ({ State.reset with inputs := [.seg 0x86] } : State).inputs = .seg 0x86 :: [] ∧
    decode (.seg 0x86) = .ok (.segDigit1 true) := by decide

theorem witness_NothingPresentedIsIdle : State.reset.inputs = [] := rfl

theorem witness_FetchWordRunsNext :
    decodeTableWord 16 0x3_04 = some (.select 4) ∧ decodeTableWord 8 0x7F = some (.segDigit8 false) := by decide

theorem witness_ClockEdgePrecedence :
    (⟨true, 5, true, 0x15A, 0⟩ : Edge).rst = true ∧
    ((⟨false, 5, false, 0x15A, 0⟩ : Edge).rst = false ∧ (⟨false, 5, false, 0x15A, 0⟩ : Edge).cmdValid = false) ∧
    ((⟨false, 5, true, 0x15A, 0⟩ : Edge).cmdValid = true ∧ decode (.cmd 0x15A) = .ok (.byteIn 0x5A) ∧
      decode (.cmd 0x900) = .rejected (.reservedOp 9)) := by decide

theorem witness_CommandDuringResetIsLost : (⟨true, 0, true, 0x15A, 7⟩ : Edge).rst = true := rfl

theorem witness_ConfigurationOnlySampledAtReset : (⟨false, 4, true, 0x15A, 7⟩ : Edge).rst = false := rfl

theorem witness_NowSampledOnlyBySelector :
    Instr.poll ≠ .startDetect ∧ Instr.poll ≠ .tickCheck ∧ Instr.poll ≠ .advance ∧
    exec .poll (fixedAt .alza 123 9) = .next (withEvents { fixedAt .alza 123 9 with lastPub := 123 } false false 0 true 123) :=
  ⟨by decide, by decide, by decide, rfl⟩

theorem witness_PowerOnResetValues :
    (presented true 0 true 0xFFF 250).inputs = .edge ⟨true, 0, true, 0xFFF, 250⟩ :: [] ∧
    (1 : Tag) = tagOfVariant .alza ∧ (2 : Tag) = tagOfVariant .jarvis ∧ (3 : Tag) = tagOfVariant .uplift ∧
    (4 : Tag) = tagOfVariant .omnidesk ∧ 5 ≤ (5 : Tag).toNat ∧ 5 ≤ (7 : Tag).toNat := by decide

/-- R-H. -/
theorem witness_LongResetIsItsLastEdge :
    (∀ e ∈ [(⟨true, 0, false, 0, 10⟩ : Edge), ⟨true, 0, false, 0, 20⟩], e.rst = true) ∧
    (⟨true, 0, false, 0, 30⟩ : Edge).rst = true := by decide

theorem witness_SegmentPortAnswersEveryByte :
    ({ State.reset with inputs := [.seg 0xBF] } : State).inputs = .seg 0xBF :: [] ∧ ShowsDigit 0xBF 0 ∧ ShowsDigit 0x6F 9 ∧
    (∀ d, ¬ShowsDigit 0x00 d) ∧ (∀ d, ¬ShowsDigit 0x7E d) := by
  unfold ShowsDigit
  decide

theorem witness_SegdecCornerCases :
    segDec params 0x3F = .digit 0 ∧ segDec params 0xBF = .digit 0 ∧ (9 : Nat) < 10 := by decide

theorem witness_SegmentPortIndependentOfBlock :
    (∃ t, step (presented false 0 true 0x500 9) = .next t) ∧
    (alzaAt .byte1 0 0 0 0 0 5).segIn = (probingAt .uplift 1 2 3).segIn := ⟨⟨_, rfl⟩, rfl⟩

theorem witness_ByteInAlzaTransitions :
    (∀ f : FState, (alzaAt f 0xB0 0x06 0x5B 0x4F 0x00 (-10)).dec = .alza ⟨f, 0xB0, ⟨0x06, 0x5B, 0x4F, 0x00⟩⟩) ∧
    (0x12 : Byte) ≠ 0x5A ∧ (0x5A : Byte) ≠ 0xB0 := ⟨fun _ => rfl, by decide⟩

/-- Digits 9, 9, 9 with the flag and without, and one unrecognized digit in each slot. -/
theorem witness_ByteInAlzaCompletion :
    (∃ d : AlzaState, (alzaAt .checksum 0xCD 0x6F 0xEF 0x6F 0x00 (-10)).dec = .alza d ∧ d.fstate = .checksum ∧
      ShowsDigit d.buf.slot0 9 ∧ ShowsDigit d.buf.slot1 9 ∧ ShowsDigit d.buf.slot2 9 ∧ d.buf.slot1.getLsbD 7 = true) ∧
    (∃ d : AlzaState, (alzaAt .checksum 0x4D 0x6F 0x6F 0x6F 0x00 (-10)).dec = .alza d ∧ d.fstate = .checksum ∧
      ShowsDigit d.buf.slot0 9 ∧ ShowsDigit d.buf.slot1 9 ∧ ShowsDigit d.buf.slot2 9 ∧ d.buf.slot1.getLsbD 7 = false) ∧
    (∀ k, ¬ShowsDigit 0x00 k) ∧ (∀ k, ¬ShowsDigit 0x80 k) ∧ (∀ k, ¬ShowsDigit 0x4E k) := by
  refine ⟨⟨_, rfl, rfl, ?_⟩, ⟨_, rfl, rfl, ?_⟩, ?_⟩ <;> unfold ShowsDigit <;> decide

theorem witness_ByteInOpenDecoders :
    ({ fixedAt .jarvis 5 0 with dec := .jarvis 0 } : State).dec = Dec.jarvis 0 ∧
    ({ fixedAt .uplift 5 0 with dec := .uplift 1 } : State).dec = Dec.uplift 1 ∧
    ({ fixedAt .omnidesk 5 0 with dec := .omnidesk 2 } : State).dec = Dec.omnidesk 2 := ⟨rfl, rfl, rfl⟩

theorem witness_DecResetOnlyResetsFraming :
    (alzaAt .byte3 0x7E 0x3F 0x3F 0x00 0x00 1230).dec = .alza ⟨.byte3, 0x7E, ⟨0x3F, 0x3F, 0x00, 0x00⟩⟩ ∧
    ({ fixedAt .jarvis 5 0 with dec := .jarvis 0 } : State).dec = .jarvis 0 ∧
    ({ fixedAt .uplift 5 0 with dec := .uplift 1 } : State).dec = .uplift 1 ∧
    ({ fixedAt .omnidesk 5 0 with dec := .omnidesk 2 } : State).dec = .omnidesk 2 := ⟨rfl, rfl, rfl, rfl⟩

/-- H2 and H3. -/
theorem witness_HeightIsDocFormula :
    ShowsDigit 0x6F 9 ∧ ShowsDigit 0xEF 9 ∧ (0xEF : Byte).getLsbD 7 = true ∧ (0x6F : Byte).getLsbD 7 = false := by
  unfold ShowsDigit
  decide

/-- The decoder contract's own hypotheses: a scanning state, a completing stream, a mismatching one, a valid frame. -/
theorem witness_AlzaMeetsDecoderContract :
    (alzaDecoder params).Scanning (initAlza) ∧
    ((alzaDecoder params).step ((alzaDecoder params).feed initAlza [0x12, 0x5A, 0x06, 0x5B, 0x4F, 0x00]) 0xB0).2 = .complete ∧
    ((alzaDecoder params).step ((alzaDecoder params).feed initAlza [0x5A, 0x06, 0x5B, 0x4F, 0x00]) 0xB1).2 = .mismatch ∧
    ValidAlzaFrame [0x5A, 0x06, 0x5B, 0x4F, 0x00, 0xB0] ∧
    (alzaDecoder params).decode ⟨.waitStart, 0xCD, ⟨0x6F, 0x6F, 0x6F, 0x00⟩⟩ = some 9990 :=
  ⟨.inl rfl, by decide, by decide, ⟨0x06, 0x5B, 0x4F, 0x00, by decide⟩, by decide⟩

theorem witness_StaleDecoderStateUnobservable :
    (⟨.waitStart, 0xB0, ⟨0x06, 0x5B, 0x4F, 0x00⟩⟩ : AlzaState).fstate = .waitStart ∧ initAlza.fstate = .waitStart := ⟨rfl, rfl⟩

theorem witness_FiveBytesFollowTheMarker : initAlza.fstate = .waitStart := rfl

theorem witness_ValidFrameCompletesOnSixthByte :
    State.reset.dec = .alza initAlza ∧ initAlza.fstate = .waitStart ∧
    ShowsDigit 0x06 1 ∧ ShowsDigit 0xDB 2 ∧ ShowsDigit 0x4F 3 ∧ 1 ≤ 1 ∧ 5 ≤ 5 := by
  refine ⟨rfl, rfl, ?_⟩
  unfold ShowsDigit
  decide

/-- The wrong byte is the marker (E6). -/
theorem witness_BadFrameIsDiscarded :
    State.reset.dec = .alza initAlza ∧ initAlza.fstate = .waitStart ∧ (0x5A : Byte) ≠ 0x06 + 0x5B + 0x4F + 0x00 ∧ 6 ≤ 6 := by
  exact ⟨rfl, rfl, by decide⟩

theorem witness_NopOnlyClearsEvents :
    (presented false 3 false 0xFFF 8).inputs = .edge ⟨false, 3, false, 0xFFF, 8⟩ :: [] := rfl

theorem witness_SelectInstallsVariant :
    (1 : Tag) = tagOfVariant .alza ∧ (4 : Tag) = tagOfVariant .omnidesk ∧ ((0 : Tag) = 0 ∨ 5 ≤ (0 : Tag).toNat) ∧
    5 ≤ (5 : Tag).toNat ∧ 5 ≤ (7 : Tag).toNat := by decide

theorem witness_AdvanceMovesToNextCandidate (v : Variant) : (fixedAt v 1230 50).variant = v := rfl

/-- V11 to V16: both sides of the window, with and without a wrap. -/
theorem witness_TickCheckJudgesDetection :
    (fixedAt .alza (-10) 999999).detectActive = false ∧
    ((probingAt .alza 0 0 999999).detectActive = true ∧ (probingAt .alza 0 0 999999).lastRead ≠ -10) ∧
    ((probingAt .alza 0 (-10) 1000).detectActive = true ∧ (probingAt .alza 0 (-10) 1000).lastRead = -10 ∧
      elapsedFrom 0 1000 ≤ 1000 ∧ elapsedFrom 0xFFFFFF00 744 ≤ 1000) ∧
    (1000 < elapsedFrom 0 1001 ∧ 1000 < elapsedFrom 0xFFFFFF00 745) := by decide

/-- Each start of the transition table, and that each of its commands answers a next state. -/
theorem witness_SelectorModeTransitions :
    modeOf (fixedAt .uplift 5 0) = .fixed .uplift ∧ modeOf (fixedAt .omnidesk 5 0) = .fixed .omnidesk ∧
    modeOf (probingAt .uplift 0 5 1000) = .probing .uplift ∧ (probingAt .uplift 0 5 1000).lastRead ≠ -10 ∧
    modeOf (probingAt .uplift 0 (-10) 1001) = .probing .uplift ∧ (probingAt .uplift 0 (-10) 1001).lastRead = -10 ∧
    elapsedFrom 0 1000 ≤ 1000 ∧ 1000 < elapsedFrom 0 1001 ∧ tagOfVariant .omnidesk = tagOfVariant .uplift + 1 ∧
    modeOf (probingAt .omnidesk 0 (-10) 1001) = .probing .omnidesk ∧
    (∀ g ∈ [(0 : Tag), 5, 6, 7], variantOfTag g = none) := by decide

theorem witness_SelectorModeTransitions_next (s : State) :
    (∃ t, exec .startDetect s = .next t) ∧ (∃ t, exec (.select (tagOfVariant .uplift)) s = .next t) ∧
    (∃ t, exec (.select 5) s = .next t) ∧ (∃ t, exec .tickCheck s = .next t) ∧ (∃ t, exec .advance s = .next t) :=
  ⟨⟨_, rfl⟩, ⟨_, rfl⟩, ⟨_, rfl⟩, ⟨_, rfl⟩, ⟨_, rfl⟩⟩

/-- A tick that changes the variant, and a reset edge. -/
theorem witness_VariantChangeBuildsFreshDecoder :
    (∃ t, exec .tickCheck (probingAt .alza 0 (-10) 1001) = .next t ∧ t.variant ≠ (probingAt .alza 0 (-10) 1001).variant) ∧
    (∃ t, exec (.select 1) (alzaAt .byte4 0xB0 0x06 0x5B 0x4F 0x00 (-10)) = .next t) ∧
    (∃ t, step (presented true 2 false 0 0) = .next t) :=
  ⟨⟨_, rfl, by decide⟩, ⟨_, rfl⟩, ⟨_, rfl⟩⟩

theorem witness_ConfirmedVariantStays :
    (probingAt .uplift 0 0 0).detectActive = true ∧ (probingAt .uplift 0 0 0).lastRead ≠ -10 := by decide

/-- P2, with one tick more in a window, and a window that wraps. -/
theorem witness_DetectionWithoutBytesExhausts :
    (∀ x ∈ [(500 : Time), 1000], elapsedFrom 0 x ≤ 1000) ∧ 1000 < elapsedFrom 0 1001 ∧
    (∀ x ∈ ([] : List Time), elapsedFrom 1001 x ≤ 1000) ∧ 1000 < elapsedFrom 1001 0xFFFFFF00 ∧
    (∀ x ∈ [(744 : Time)], elapsedFrom 0xFFFFFF00 x ≤ 1000) ∧ 1000 < elapsedFrom 0xFFFFFF00 745 ∧
    (∀ x ∈ [(1745 : Time)], elapsedFrom 745 x ≤ 1000) ∧ 1000 < elapsedFrom 745 1746 := by
  simp [elapsedFrom]

theorem witness_ProbingEndsInFourExpiries :
    (probingAt .alza 0 (-10) 0).detectActive = true ∧ 1000 < elapsedFrom 0 1001 ∧ 1000 < elapsedFrom 1001 2002 ∧
    1000 < elapsedFrom 2002 3003 ∧ 1000 < elapsedFrom 3003 4004 := by decide

/-- F11. -/
theorem witness_CompletedFrameBeatsTimeout :
    ∃ t, exec (.byteIn 0xB0) { alzaAt .checksum 0xB0 0x06 0x5B 0x4F 0x00 (-10) with detectActive := true } = .next t ∧
      t.frameComplete = true ∧ t.lastRead ≠ -10 := ⟨_, rfl, by decide⟩

/-- F10. -/
theorem witness_BadDigitReplacesReading :
    ∃ t, exec (.byteIn 0xAF) (alzaAt .checksum 0xAF 0x06 0x5B 0x4E 0x00 1230) = .next t ∧ t.diagCode = 2 :=
  ⟨_, rfl, by decide⟩

/-- Heights 1 and 0 on the two sides of the sign test, and the largest height there is. -/
theorem witness_PollPublishesPositiveNewHeight :
    (0 < (fixedAt .alza 1 0).lastRead.toInt ∧ (fixedAt .alza 1 0).lastRead ≠ (fixedAt .alza 1 0).lastPub) ∧
    (0 < (fixedAt .alza 32767 0).lastRead.toInt ∧ (fixedAt .alza 32767 0).lastRead ≠ (fixedAt .alza 32767 0).lastPub) ∧
    ¬(0 < (fixedAt .alza 0 0).lastRead.toInt ∧ (fixedAt .alza 0 0).lastRead ≠ (fixedAt .alza 0 0).lastPub) := by decide

theorem witness_PublishedOnlyPositiveAndNew :
    isSegRow .poll = false ∧ ∃ t, exec .poll (fixedAt .alza 1 0) = .next t ∧ t.pubValid = true :=
  ⟨rfl, _, rfl, by decide⟩

/-- Each register changed by a writer of it. -/
theorem witness_WritersOfEachRegister :
    (∃ t, exec .advance (probingAt .alza 0 5 7) = .next t ∧ t.variant ≠ (probingAt .alza 0 5 7).variant ∧
      t.probeStart ≠ (probingAt .alza 0 5 7).probeStart ∧ t.lastRead ≠ (probingAt .alza 0 5 7).lastRead) ∧
    (∃ t, exec (.byteIn 0x5A) State.reset = .next t ∧ t.dec ≠ State.reset.dec) ∧
    (∃ t, exec .startDetect State.reset = .next t ∧ t.detectActive ≠ State.reset.detectActive) ∧
    (∃ t, exec .poll (fixedAt .alza 5 0) = .next t ∧ t.lastPub ≠ (fixedAt .alza 5 0).lastPub) ∧
    (∃ t, exec (.segDigit0 true) State.reset = .next t ∧ t.segIn ≠ State.reset.segIn ∧ isSegRow (.segDigit0 true) = true) :=
  ⟨⟨_, rfl, by decide⟩, ⟨_, rfl, by decide⟩, ⟨_, rfl, by decide⟩, ⟨_, rfl, by decide⟩, ⟨_, rfl, by decide⟩⟩

theorem witness_DetectActiveChangesAreNamed :
    (∃ t, exec .startDetect State.reset = .next t ∧ t.detectActive ≠ State.reset.detectActive) ∧
    (∃ t, exec .tickCheck (probingAt .alza 0 0 5) = .next t ∧ t.detectActive ≠ (probingAt .alza 0 0 5).detectActive) ∧
    (∃ t, exec .advance (probingAt .omnidesk 0 0 5) = .next t ∧ t.detectActive ≠ (probingAt .omnidesk 0 0 5).detectActive) :=
  ⟨⟨_, rfl, by decide⟩, ⟨_, rfl, by decide⟩, ⟨_, rfl, by decide⟩⟩

/-- Each diagnostic of an instruction raised once. -/
theorem witness_DiagnosticsOfEachInstruction :
    (∃ t, exec (.byteIn 0x5A) (alzaAt .checksum 0xB0 0x06 0x5B 0x4F 0x00 5) = .next t ∧ t.diagCode = 1) ∧
    (∃ t, exec (.byteIn 0xAF) (alzaAt .checksum 0xAF 0x06 0x5B 0x4E 0x00 5) = .next t ∧ t.diagCode = 2 ∧ t.frameComplete = true) ∧
    (∃ t, exec (.select 0) State.reset = .next t ∧ t.diagCode = 3) ∧
    (∃ t, exec .advance (fixedAt .omnidesk 5 0) = .next t ∧ t.diagCode = 4) ∧
    (∃ t, exec .tickCheck (probingAt .alza 0 0 5) = .next t ∧ t.diagCode = 5) ∧
    (∃ t, exec .tickCheck (probingAt .alza 0 (-10) 1001) = .next t ∧ t.diagCode = 6) ∧
    (∃ t, exec .poll (fixedAt .alza 5 0) = .next t ∧ t.pubValid = true) :=
  ⟨⟨_, rfl, by decide⟩, ⟨_, rfl, by decide⟩, ⟨_, rfl, by decide⟩, ⟨_, rfl, by decide⟩, ⟨_, rfl, by decide⟩,
    ⟨_, rfl, by decide⟩, ⟨_, rfl, by decide⟩⟩

theorem witness_EventRegistersNeverRead :
    (presented false 0 true 0x700 0).inputs = .edge ⟨false, 0, true, 0x700, 0⟩ :: [] ∧ State.reset.inputs = [] ∧
    ∃ t, step { State.reset with inputs := [.seg 0x3F] } = .next t := ⟨rfl, rfl, _, rfl⟩

/-- A state in the middle of a frame of a session meets the invariant, and steps. -/
theorem witness_StepKeepsInvariant :
    BlockInvariant params { alzaAt .byte3 0x61 0x06 0x5B 0x00 0x00 1230 with
      detectActive := true, lastPub := 1230, inputs := [.edge ⟨false, 0, true, 0x14F, 3⟩] } ∧
    ∃ t, step { alzaAt .byte3 0x61 0x06 0x5B 0x00 0x00 1230 with
      detectActive := true, lastPub := 1230, inputs := [.edge ⟨false, 0, true, 0x14F, 3⟩] } = .next t := by
  refine ⟨⟨rfl, ?_, .inr (by decide), .inr (by decide), ⟨by decide, by decide, by decide, by decide, by decide⟩⟩, _, rfl⟩
  intro d h
  cases h
  rfl

theorem witness_MachineIsDefaultParameters :
    (presented false 0 true 0x200 9).inputs = .edge ⟨false, 0, true, 0x200, 9⟩ :: [] := rfl

theorem witness_DecodeEncodeAgreeForEveryParameters :
    params.wellFormed = true ∧ audited.wellFormed = true ∧ decodeWith audited (.seg 0xFF) = .ok (.segDigit9 true) ∧
    decodeWith audited (.cmd 0x301) = .ok (.select 1) := by decide

theorem witness_PowerOnResetForEveryParameters :
    audited.variantOrder = .omnidesk :: [.uplift, .jarvis, .alza] ∧ 5 ≤ (5 : Tag).toNat ∧ 5 ≤ (7 : Tag).toNat := by decide

/-- Both sides of the window, the first, a middle and the last place of the order. -/
theorem witness_SelectorForEveryParameters :
    audited.wellFormed = true ∧ audited.variantOrder = .omnidesk :: [.uplift, .jarvis, .alza] ∧
    audited.variantOrder = [] ++ .omnidesk :: .uplift :: [.jarvis, .alza] ∧
    audited.variantOrder = [.omnidesk] ++ (State.initial audited).variant :: .jarvis :: [.alza] ∧
    audited.variantOrder = [.omnidesk, .uplift, .jarvis] ++ [.alza] ∧
    ({ State.initial audited with detectActive := true, lastRead := 0 } : State 20 24).lastRead ≠ audited.sentinel ∧
    (State.initial audited).lastRead = audited.sentinel ∧
    ((500 : Int) - 0) % 2 ^ 20 ≤ (audited.detectTimeoutMs.toNat : Int) ∧
    (audited.detectTimeoutMs.toNat : Int) < ((501 : Int) - 0) % 2 ^ 20 := by decide

theorem witness_FramingForEveryParameters :
    audited.wellFormed = true ∧
    (∀ f : FState, ({ State.initial audited with dec := .alza ⟨f, 0, ⟨0x6F, 0xEF, 0x00, 0x00⟩⟩ } : State 20 24).dec =
      .alza ⟨f, 0, ⟨0x6F, 0xEF, 0x00, 0x00⟩⟩) ∧
    (0x5A : Byte) ≠ audited.startMarkerAlza ∧ ShowsCode audited 0x6F 8 ∧ ShowsCode audited 0xFF 9 ∧
    (∀ k, ¬ShowsCode audited 0x00 k) := by
  refine ⟨by decide, fun _ => rfl, by decide, ?_⟩
  unfold ShowsCode
  decide

theorem witness_StepKeepsInvariantForEveryParameters :
    audited.wellFormed = true ∧ BlockInvariant audited (State.initial audited) ∧
    ∃ t, stepWith audited (State.initial audited) = .next t := by
  refine ⟨by decide, ⟨rfl, ?_, .inl rfl, .inl rfl, ⟨by decide, by decide, by decide, by decide, by decide⟩⟩, _, rfl⟩
  intro d h
  cases h

end Sys2Proof.Tests
end

section
/-! PROOFS. The default parameters, and how a step reads what the host presents. -/

namespace Sys2Proof.Machine

variable {tw hw : Nat}

/-! ## Stepping, whatever the parameters -/

theorem stepWith_edge (c : Config tw hw) {s : State tw hw} {e : Edge tw} {rest : List (Input tw)}
    (h : s.inputs = .edge e :: rest) :
    stepWith c s = .next (perform c (edgeOperation c e) { s with now := e.now, inputs := rest }) := by
  simp [stepWith, fetch, h]

theorem stepWith_seg (c : Config tw hw) {s : State tw hw} {b : Byte} {rest : List (Input tw)}
    (h : s.inputs = .seg b :: rest) :
    stepWith c s = .next (perform c (segOperation c b) { s with inputs := rest }) := by
  simp [stepWith, fetch, h]

theorem edgeOperation_of_command (c : Config tw hw) {e : Edge tw} {i : Instr} (hr : e.rst = false)
    (hv : e.cmdValid = true) (hd : decodeWith c (.cmd e.cmd) = .ok i) : edgeOperation c e = .run i := by
  simp [edgeOperation, hr, hv, hd]

theorem segOperation_of_row (c : Config tw hw) {b : Byte} {i : Instr} (hd : decodeWith c (.seg b) = .ok i) :
    segOperation c b = .run i := by
  simp [segOperation, hd]

/-- `step` hands an instruction to `exec` where `stepWith` hands it to `effect`; the other operations they share. -/
theorem step_eq_stepWith (s : State) : step s = stepWith params s := by
  rcases hf : fetch params s with ⟨op, t⟩
  cases op with
  | run i => simp [step, stepWith, hf, perform, exec_eq_effect]
  | por cfg => simp [step, stepWith, hf]
  | illegal r => simp [step, stepWith, hf]
  | segOther b => simp [step, stepWith, hf]

/-- Settles O7: the values by evaluation, well-formedness by its five decidable checks. -/
theorem defaultParameterValues : Obligations.DefaultParameterValues :=
  ⟨rfl, rfl, rfl, by decide, rfl, rfl, firstVariant_params, lastVariant_params, rfl, rfl, rfl, fun _ => rfl, by decide⟩

/-- Settles O8: an edge or a byte whose word decodes is the operation `run`, and what it performs is `exec`. -/
theorem stepRunsPresentedInstruction : Obligations.StepRunsPresentedInstruction := by
  refine ⟨fun s e rest i hin hr hv hd => ?_, fun s b rest i hin hd => ?_⟩
  · rw [step_eq_stepWith, stepWith_edge params hin, edgeOperation_of_command params hr hv hd, exec_eq_effect]
    rfl
  · rw [step_eq_stepWith, stepWith_seg params hin, segOperation_of_row params hd, exec_eq_effect]
    rfl

/-- Settles O55: `step` and `exec` by the two lemmas that tie them to the parametric machine, the rest by definition. -/
theorem machineIsDefaultParameters : Obligations.MachineIsDefaultParameters := by
  refine ⟨step_eq_stepWith, exec_eq_effect, fun _ => rfl, fun _ => rfl, rfl, fun s e rest hin => ?_⟩
  rw [step_eq_stepWith, stepWith_edge params hin]
  rfl

end Sys2Proof.Machine
end

section
/-! PROOFS. Decode and encode agree for all well-formed parameters. -/

namespace Sys2Proof.Machine

variable {tw hw : Nat}

/-! ## Command words -/

theorem decodeNoOperand_eq_ok_iff (w : CmdWord) (i j : Instr) :
    decodeNoOperand w i = .ok j ↔ cmdArg w = 0#8 ∧ i = j := by
  by_cases h : cmdArg w = 0#8 <;> simp [decodeNoOperand, h]

/-- A command word is the word of its two fields, whatever they are known to be. -/
theorem cmdWord_of_fields {w : CmdWord} {op : BitVec 4} {arg : Byte} (ho : (cmdOp w).toNat = op.toNat)
    (ha : cmdArg w = arg) : cmdWord op arg = w := by
  rw [← BitVec.eq_of_toNat_eq ho, ← ha, cmdWord_fields]

/-- A command word that decodes is the word of its instruction: `op` chose the row, and the row's operand or its zero
fields are the rest of the word (R91 to R94). -/
theorem encodeWith_of_decodeCmd (c : Config tw hw) {w : CmdWord} {i : Instr} (h : decodeCmd w = .ok i) :
    encodeWith c i = .cmd w := by
  unfold decodeCmd at h
  split at h
  case h_2 ho =>
    cases h
    exact congrArg PortWord.cmd (cmdWord_of_fields ho rfl)
  case h_4 ho =>
    split at h
    case isTrue hz =>
      cases h
      refine congrArg PortWord.cmd (cmdWord_of_fields ho ?_)
      rw [← hz, select_fields]
    case isFalse => cases h
  case h_9 => cases h
  all_goals
    rename_i ho
    obtain ⟨ha, rfl⟩ := (decodeNoOperand_eq_ok_iff _ _ _).1 h
    exact congrArg PortWord.cmd (cmdWord_of_fields ho ha)

/-! ## Segment bytes -/

theorem showsCode_segByte_codeOf (c : Config tw hw) (dp : Bool) (d : Fin 10) :
    ShowsCode c (segByte dp (codeOf c d.val)) d := by
  rw [ShowsCode, ← segPattern_eq_iff, segPattern_segByte, codeOf]

/-- The byte of a digit's code decodes to the digit's row, whatever bit 7 is (R115). -/
theorem decodeSegWith_segByte_codeOf {c : Config tw hw} (hc : c.wellFormed = true) {dp : Bool} (d : Fin 10) {i : Instr}
    (hr : segRow dp d.val = some i) : decodeSegWith c (segByte dp (codeOf c d.val)) = .ok i := by
  have hs := (segDec_eq_digit_iff hc _ d).2 (showsCode_segByte_codeOf c dp d)
  simp [decodeSegWith, hs, hr]

/-- The word of a segment row. -/
theorem encodeWith_of_segRow (c : Config tw hw) {dp : Bool} {d : Nat} {i : Instr} (h : segRow dp d = some i) :
    encodeWith c i = .seg (segByte dp (codeOf c d)) := by
  unfold segRow at h
  split at h <;> cases h <;> rfl

/-- A byte that decodes to a row is the row's code under the byte's own bit 7. -/
theorem decodeSegWith_eq_ok {c : Config tw hw} {b : Byte} {i : Instr} (h : decodeSegWith c b = .ok i) :
    ∃ d, segRow (segTopBit b) d = some i ∧ codeOf c d = segPattern b := by
  unfold decodeSegWith at h
  cases hs : segDec c b with
  | unrec => simp [hs] at h
  | digit d =>
    cases hr : segRow (segTopBit b) d with
    | none => simp [hs, hr] at h
    | some j =>
      obtain ⟨k, -, hk, hp⟩ := getElem?_of_segScan hs
      refine ⟨d, by simpa [hs, hr] using h, ?_⟩
      rw [codeOf, List.getD_eq_getElem?_getD, ← Nat.sub_zero d, hk, Option.getD_some, hp]

theorem encodeWith_of_decodeSegWith {c : Config tw hw} {b : Byte} {i : Instr} (h : decodeSegWith c b = .ok i) :
    encodeWith c i = .seg b := by
  obtain ⟨d, hr, hp⟩ := decodeSegWith_eq_ok h
  rw [encodeWith_of_segRow c hr, hp, segByte_fields]

/-! ## Both ports -/

/-- An instruction's word decodes to it, with every operand. -/
theorem decodeWith_encodeWith {c : Config tw hw} (hc : c.wellFormed = true) (i : Instr) :
    decodeWith c (encodeWith c i) = .ok i := by
  cases i with
  | byteIn b => simp [encodeWith, decodeWith, decodeCmd]
  | select t => simp [encodeWith, decodeWith, decodeCmd]
  | segDigit0 dp => exact decodeSegWith_segByte_codeOf hc 0 rfl
  | segDigit1 dp => exact decodeSegWith_segByte_codeOf hc 1 rfl
  | segDigit2 dp => exact decodeSegWith_segByte_codeOf hc 2 rfl
  | segDigit3 dp => exact decodeSegWith_segByte_codeOf hc 3 rfl
  | segDigit4 dp => exact decodeSegWith_segByte_codeOf hc 4 rfl
  | segDigit5 dp => exact decodeSegWith_segByte_codeOf hc 5 rfl
  | segDigit6 dp => exact decodeSegWith_segByte_codeOf hc 6 rfl
  | segDigit7 dp => exact decodeSegWith_segByte_codeOf hc 7 rfl
  | segDigit8 dp => exact decodeSegWith_segByte_codeOf hc 8 rfl
  | segDigit9 dp => exact decodeSegWith_segByte_codeOf hc 9 rfl
  | nop => rfl
  | tickCheck => rfl
  | startDetect => rfl
  | advance => rfl
  | decReset => rfl
  | poll => rfl

/-- A word that decodes to an instruction is its word. -/
theorem encodeWith_of_decodeWith (c : Config tw hw) {w : PortWord} {i : Instr} (h : decodeWith c w = .ok i) :
    encodeWith c i = w := by
  cases w with
  | cmd w => exact encodeWith_of_decodeCmd c h
  | seg b => exact encodeWith_of_decodeSegWith h

/-- Settles O56, port by port: the command rows by their fields, the segment rows by SEGDEC over distinct codes. -/
theorem decodeEncodeAgreeForEveryParameters : Obligations.DecodeEncodeAgreeForEveryParameters :=
  fun _ _ c hc => ⟨decodeWith_encodeWith hc, fun _ _ => encodeWith_of_decodeWith c⟩

end Sys2Proof.Machine
end

section
/-! PROOFS. Reset, selector and framing for all parameters. -/

namespace Sys2Proof.Machine

variable {tw hw : Nat} {c : Config tw hw} {s : State tw hw}

/-! ## Operands -/

@[simp] theorem variantOfTag_tagOfVariant (v : Variant) : variantOfTag (tagOfVariant v) = some v := by cases v <;> rfl

theorem tagOfVariant_ne_unknown (v : Variant) : tagOfVariant v ≠ tagUnknown := by cases v <;> decide

theorem variantOfTag_unknown : variantOfTag tagUnknown = none := rfl

/-- The tags above the four variants name none (R101). -/
theorem variantOfTag_of_five_le : ∀ g : Tag, 5 ≤ g.toNat → variantOfTag g = none := by decide

theorem ne_unknown_of_five_le {g : Tag} (h : 5 ≤ g.toNat) : g ≠ tagUnknown := by
  rintro rfl
  exact absurd h (by decide)

/-! ## Power-on reset -/

theorem powerOnReset_unknown (c : Config tw hw) (s : State tw hw) :
    powerOnReset c tagUnknown s = withEvents { s with
      variant := firstVariant c, dec := initDec c (firstVariant c), detectActive := true, probeStart := s.now,
      lastRead := c.sentinel, lastPub := c.sentinel } false false 0 false 0 := by
  rcases powerOnReset_cases c tagUnknown s with ⟨-, e⟩ | ⟨_, hn, -, -⟩ | ⟨hn, -, -⟩
  · exact e
  · exact absurd rfl hn
  · exact absurd rfl hn

theorem powerOnReset_tagOfVariant (c : Config tw hw) (v : Variant) (s : State tw hw) :
    powerOnReset c (tagOfVariant v) s = withEvents { s with
      variant := v, dec := initDec c v, detectActive := false, probeStart := 0, lastRead := c.sentinel,
      lastPub := c.sentinel } false false 0 false 0 := by
  rcases powerOnReset_cases c (tagOfVariant v) s with ⟨hu, -⟩ | ⟨u, -, hu, e⟩ | ⟨-, hn, -⟩
  · exact absurd hu (tagOfVariant_ne_unknown v)
  · rw [variantOfTag_tagOfVariant, Option.some.injEq] at hu
    subst hu
    exact e
  · simp at hn

theorem powerOnReset_invalid (c : Config tw hw) {g : Tag} (hg : 5 ≤ g.toNat) (s : State tw hw) :
    powerOnReset c g s = withEvents { s with
      variant := c.defaultVariant, dec := initDec c c.defaultVariant, detectActive := false, probeStart := 0,
      lastRead := c.sentinel, lastPub := c.sentinel } false true 3 false 0 := by
  rcases powerOnReset_cases c g s with ⟨hu, -⟩ | ⟨u, -, hu, -⟩ | ⟨-, -, e⟩
  · exact absurd hu (ne_unknown_of_five_le hg)
  · simp [variantOfTag_of_five_le g hg] at hu
  · exact e

/-- Settles O57, by the level on `cfg_variant`. -/
theorem powerOnResetForEveryParameters : Obligations.PowerOnResetForEveryParameters := by
  refine fun tw hw c s => ⟨fun v r hv => ?_, fun v => powerOnReset_tagOfVariant c v s,
    fun g hg => powerOnReset_invalid c hg s, ?_⟩
  · rw [← firstVariant_of_order hv]
    exact powerOnReset_unknown c s
  · rw [powerOnReset_tagOfVariant]
    rfl

/-! ## The selector -/

/-- The difference of two words, over the integers (R15). -/
theorem toNat_sub_eq_emod {w : Nat} (x y : BitVec w) :
    ((x - y).toNat : Int) = ((x.toNat : Int) - (y.toNat : Int)) % 2 ^ w := by
  have hy : y.toNat ≤ 2 ^ w := y.isLt.le
  calc ((x - y).toNat : Int) = (2 ^ w - (y.toNat : Int) + (x.toNat : Int)) % 2 ^ w := by
        rw [BitVec.toNat_sub]
        push_cast [hy]
        rfl
    _ = (((x.toNat : Int) - (y.toNat : Int)) + 2 ^ w) % 2 ^ w := by ring_nf
    _ = ((x.toNat : Int) - (y.toNat : Int)) % 2 ^ w := Int.add_emod_right _ _

theorem selectVariant_of_none {g : Tag} (hg : variantOfTag g = none) : selectVariant c g s = withEvents { s with
    variant := c.defaultVariant, dec := initDec c c.defaultVariant } false true 3 false 0 := by
  rcases selectVariant_cases c g s with ⟨v, hv, -⟩ | ⟨-, e⟩
  · simp [hg] at hv
  · exact e

/-- The window's comparison over the integers, for every TIME_WIDTH (R205). -/
theorem expired_iff (c : Config tw hw) (s : State tw hw) : expired c s = true ↔
    (c.detectTimeoutMs.toNat : Int) < ((s.now.toNat : Int) - (s.probeStart.toNat : Int)) % 2 ^ tw := by
  rw [← toNat_sub_eq_emod, Nat.cast_lt]
  simp [expired, BitVec.ult]

theorem startDetection_eq (c : Config tw hw) (s : State tw hw) : startDetection c s = withEvents { s with
    variant := firstVariant c, dec := initDec c (firstVariant c), probeStart := s.now, lastRead := c.sentinel,
    detectActive := true } false false 0 false 0 := rfl

theorem advanceCandidate_of_not_last (h : s.variant ≠ lastVariant c) : advanceCandidate c s = withEvents { s with
    variant := nextVariant c s.variant, dec := initDec c (nextVariant c s.variant), probeStart := s.now,
    lastRead := c.sentinel } false true 6 false 0 := by
  rcases advanceCandidate_cases c s with ⟨hl, -⟩ | ⟨-, e⟩
  · exact absurd hl h
  · exact e

theorem advanceCandidate_of_last (h : s.variant = lastVariant c) : advanceCandidate c s = withEvents { s with
    variant := c.defaultVariant, dec := initDec c c.defaultVariant, detectActive := false } false true 4 false 0 := by
  rcases advanceCandidate_cases c s with ⟨-, e⟩ | ⟨hn, -⟩
  · exact e
  · exact absurd h hn

theorem checkTick_of_read (ha : s.detectActive = true) (hl : s.lastRead ≠ c.sentinel) :
    checkTick c s = withEvents { s with detectActive := false } false true 5 false 0 := by
  rcases checkTick_cases c s with ⟨hn, -⟩ | ⟨-, -, e⟩ | ⟨-, hs, -⟩ | ⟨-, hs, -⟩
  · simp [ha] at hn
  · exact e
  · exact absurd hs hl
  · exact absurd hs hl

theorem checkTick_of_sentinel (ha : s.detectActive = true) (hl : s.lastRead = c.sentinel) :
    checkTick c s = if expired c s then advanceCandidate c s else s.clearEvents := by
  simp [checkTick, ha, hl]

/-- Settles O58, operation by operation; VARIANT_ORDER enters by the three lemmas on its first, next and last. -/
theorem selectorForEveryParameters : Obligations.SelectorForEveryParameters := by
  refine fun tw hw c s hc => ⟨fun v r hv => ?_, fun g hg => selectVariant_of_none ?_, fun l u r hv => ?_, fun l hv => ?_,
    checkTick_of_read, fun ha hl ht => ?_, fun ha hl ht => ?_⟩
  · rw [← firstVariant_of_order hv]
    exact startDetection_eq c s
  · rcases hg with rfl | hg
    · exact variantOfTag_unknown
    · exact variantOfTag_of_five_le g hg
  · obtain ⟨hu, hn⟩ := nextVariant_of_order hc hv
    rw [← hu]
    exact advanceCandidate_of_not_last hn
  · exact advanceCandidate_of_last (lastVariant_of_order hv).symm
  · have he : ¬expired c s = true := fun he => absurd ((expired_iff c s).1 he) (by omega)
    exact (checkTick_of_sentinel ha hl).trans (if_neg he)
  · exact (checkTick_of_sentinel ha hl).trans (if_pos ((expired_iff c s).2 ht))

/-! ## Framing -/

/-- BYTE_IN under ALZA while no frame ends: the decoder's register alone changes. -/
theorem consumeByte_of_quiet {d d' : AlzaState} {b : Byte} (hd : s.dec = .alza d) (hq : stepAlza c d b = (d', .quiet)) :
    consumeByte c b s = withEvents { s with dec := .alza d' } false false 0 false 0 := by
  have hs : stepDec c s.dec b = (.alza d', .quiet) := by simp [hd, stepDec, alzaDecoder, hq]
  rcases consumeByte_cases c b s with ⟨-, e⟩ | ⟨hm, -⟩ | ⟨hm, -⟩
  · rw [e, hs]
    rfl
  · simp [hs] at hm
  · simp [hs] at hm

/-- BYTE_IN under ALZA with the byte that ends a frame. -/
theorem consumeByte_of_checksum {d : AlzaState} (hd : s.dec = .alza d) (hf : d.fstate = .checksum) :
    consumeByte c d.acc s = complete c { s.clearEvents with dec := .alza { d with fstate := .waitStart } } := by
  simp [consumeByte, hd, stepDec, alzaDecoder, stepAlza, hf]

theorem consumeByte_of_height (hc : c.wellFormed = true) {d : AlzaState} {h : Reading hw} (hd : s.dec = .alza d)
    (hf : d.fstate = .checksum) (hx : decodeAlza c { d with fstate := .waitStart } = some h) :
    consumeByte c d.acc s = withEvents { s with
      dec := .alza { d with fstate := .waitStart }, lastRead := h.setWidth hw } true false 0 false 0 := by
  rw [consumeByte_of_checksum hd hf]
  exact complete_of_reading hc hx

theorem consumeByte_of_no_height {d : AlzaState} (hd : s.dec = .alza d) (hf : d.fstate = .checksum)
    (hx : decodeAlza c { d with fstate := .waitStart } = none) :
    consumeByte c d.acc s = withEvents { s with
      dec := .alza { d with fstate := .waitStart }, lastRead := c.sentinel } true true 2 false 0 := by
  rw [consumeByte_of_checksum hd hf]
  exact complete_of_none hx

theorem decodeAlza_of_codes (hc : c.wellFormed = true) {d : AlzaState} {d0 d1 d2 : Fin 10}
    (h0 : ShowsCode c d.buf.slot0 d0) (h1 : ShowsCode c d.buf.slot1 d1) (h2 : ShowsCode c d.buf.slot2 d2) :
    decodeAlza c d = some (BitVec.ofNat (hw - 1) (assembleDigits (decimalFlag d.buf) d0.val d1.val d2.val)) := by
  simp [decodeAlza, (segDec_eq_digit_iff hc _ _).2 h0, (segDec_eq_digit_iff hc _ _).2 h1,
    (segDec_eq_digit_iff hc _ _).2 h2]

theorem decodeAlza_of_no_code (hc : c.wellFormed = true) {d : AlzaState}
    (h : (∀ k, ¬ShowsCode c d.buf.slot0 k) ∨ (∀ k, ¬ShowsCode c d.buf.slot1 k) ∨ (∀ k, ¬ShowsCode c d.buf.slot2 k)) :
    decodeAlza c d = none := by
  simp only [← segDec_eq_unrec_iff hc] at h
  unfold decodeAlza
  split
  case h_1 h0 h1 h2 => simp [h0, h1, h2] at h
  case h_2 => rfl

/-- Three digits make at most 999.0 cm (R162). -/
theorem assembleDigits_le (flag : Bool) (d0 d1 d2 : Fin 10) : assembleDigits flag d0.val d1.val d2.val ≤ 9990 := by
  cases flag <;> simp [assembleDigits] <;> omega

theorem ofNat_assembleDigits (w : Nat) (flag : Bool) (d0 d1 d2 : Nat) : BitVec.ofNat w (assembleDigits flag d0 d1 d2) =
    if flag then BitVec.ofNat w (100 * d0 + 10 * d1 + d2) else BitVec.ofNat w (10 * (100 * d0 + 10 * d1 + d2)) := by
  cases flag <;> rfl

/-- Settles O59: the two rows of WAIT_START, and COMPLETE with three codes or with a byte that shows none. -/
theorem framingForEveryParameters : Obligations.FramingForEveryParameters := by
  refine fun tw hw c s d hc hd => ⟨fun hf => ?_, fun b hf hb => ?_, fun d0 d1 d2 hf h0 h1 h2 => ?_, fun hf hn => ?_⟩
  · exact consumeByte_of_quiet hd (by simp [stepAlza, hf])
  · have h := consumeByte_of_quiet (c := c) (b := b) (d' := d) hd (by simp [stepAlza, hf, hb])
    rwa [← hd] at h
  · rw [← ofNat_assembleDigits, ← stored_reading hc (assembleDigits_le _ d0 d1 d2)]
    exact consumeByte_of_height hc hd hf (decodeAlza_of_codes hc h0 h1 h2)
  · exact consumeByte_of_no_height hd hf (decodeAlza_of_no_code hc hn)

end Sys2Proof.Machine
end

section
/-! PROOFS. Every step keeps the invariant of the block, whatever the parameters: the live decoder's part, then the event registers,
then each operation, then the step. -/

namespace Sys2Proof.Machine

variable {tw hw : Nat} {c : Config tw hw} {s : State tw hw}

/-! ## The live decoder -/

/-- R49 for one decoder state, whichever variant it belongs to: `AccInvariant s` is this of `s.dec`. -/
def AccOfDec (x : Dec) : Prop := ∀ d, x = .alza d → AccMatchesFrame d

theorem accInvariant_iff (s : State tw hw) : AccInvariant s ↔ AccOfDec s.dec := Iff.rfl

theorem accOfDec_alza {d : AlzaState} (h : AccMatchesFrame d) : AccOfDec (.alza d) := by
  intro d' e
  cases e
  exact h

theorem accOfDec_initDec (c : Config tw hw) (v : Variant) : AccOfDec (initDec c v) := by
  cases v with
  | alza => exact accOfDec_alza (.inl rfl)
  | jarvis => nofun
  | uplift => nofun
  | omnidesk => nofun

theorem accOfDec_stepDec (c : Config tw hw) {x : Dec} (b : Byte) (h : AccOfDec x) : AccOfDec (stepDec c x b).1 := by
  cases x with
  | alza d => exact accOfDec_alza (stepAlza_keeps_acc c d b (h d rfl))
  | jarvis k => nofun
  | uplift k => nofun
  | omnidesk k => nofun

theorem accOfDec_resetDec (c : Config tw hw) (x : Dec) : AccOfDec (resetDec c x) := by
  cases x with
  | alza d => exact accOfDec_alza (.inl rfl)
  | jarvis k => nofun
  | uplift k => nofun
  | omnidesk k => nofun

theorem heightLegal_heightOf (c : Config tw hw) (o : Option (Reading hw)) : HeightLegal c (heightOf c o) := by
  cases o with
  | none => exact .inl rfl
  | some h => exact .inr (reading_toInt_nonneg h)

/-! ## What an operation has to leave -/

/-- The invariant without the event registers. -/
structure RegistersLegal (c : Config tw hw) (s : State tw hw) : Prop where
  live : OneLiveDecoder s
  acc : AccOfDec s.dec
  read : HeightLegal c s.lastRead
  pub : PublishedLegal c s.lastPub

theorem registersLegal_of_invariant (h : BlockInvariant c s) : RegistersLegal c s :=
  ⟨h.live, (accInvariant_iff s).1 h.acc, h.read_legal, h.pub_legal⟩

/-- Where nothing is published the events are coherent when the code agrees with its valid bit and a completion stands
beside no other code than 2. -/
theorem invariant_of_unpublished (h : RegistersLegal c s) (hp : s.pubValid = false) (hv : s.pubValue = 0)
    (hd : s.diagCode = 0 ↔ s.diagValid = false) (hf : s.frameComplete = true → s.diagCode = 0 ∨ s.diagCode = 2) :
    BlockInvariant c s where
  live := h.live
  acc := (accInvariant_iff s).2 h.acc
  read_legal := h.read
  pub_legal := h.pub
  events :=
    { code_iff_valid := hd
      value_only_valid := fun _ => hv
      publish_alone := by simp [hp]
      published_is_last := by simp [hp]
      beside_completion := hf }

/-- An operation that emits nothing. -/
theorem invariant_clearEvents (h : RegistersLegal c s) : BlockInvariant c s.clearEvents :=
  invariant_of_unpublished ⟨h.live, h.acc, h.read, h.pub⟩ rfl rfl (by simp) (by simp)

theorem diagCodeOf_ne_zero (d : Diag) : diagCodeOf d ≠ 0 := by cases d <;> decide

/-- An operation that emits one diagnostic and nothing else. -/
theorem invariant_emitDiag (h : RegistersLegal c s) (d : Diag) : BlockInvariant c (s.clearEvents.emitDiag d) :=
  invariant_of_unpublished ⟨h.live, h.acc, h.read, h.pub⟩ rfl rfl
    (iff_of_false (diagCodeOf_ne_zero d) (by simp)) (by simp)

theorem registersLegal_install (h : RegistersLegal c s) (v : Variant) : RegistersLegal c (s.install c v) :=
  ⟨variantOfDec_initDec c v, accOfDec_initDec c v, h.read, h.pub⟩

/-! ## The operations -/

/-- The invariant does not read the ports that the host drives. -/
theorem invariant_setPorts (h : BlockInvariant c s) (t : Time tw) (b : Byte) (l : List (Input tw)) :
    BlockInvariant c { s with now := t, segIn := b, inputs := l } := by
  obtain ⟨live, acc, read, pub, ⟨code, value, alone, last, beside⟩⟩ := h
  exact ⟨live, acc, read, pub, ⟨code, value, alone, last, beside⟩⟩

theorem driveSeg_keeps_invariant (h : BlockInvariant c s) (b : Byte) : BlockInvariant c (driveSeg b s) :=
  invariant_setPorts h s.now b s.inputs

theorem complete_gives_invariant (h : RegistersLegal c s) : BlockInvariant c (complete c s.clearEvents) := by
  rcases complete_cases c s.clearEvents with ⟨-, e⟩ | ⟨-, e⟩ <;> rw [e]
  · exact invariant_of_unpublished ⟨h.live, h.acc, .inl rfl, h.pub⟩ rfl rfl (by simp) (by simp)
  · exact invariant_of_unpublished ⟨h.live, h.acc, heightLegal_heightOf c _, h.pub⟩ rfl rfl (by simp) (by simp)

theorem consumeByte_keeps_invariant (h : RegistersLegal c s) (b : Byte) : BlockInvariant c (consumeByte c b s) := by
  have ht : RegistersLegal c { s with dec := (stepDec c s.dec b).1 } :=
    ⟨(variantOfDec_stepDec c s.dec b).trans h.live, accOfDec_stepDec c b h.acc, h.read, h.pub⟩
  rcases consumeByte_cases c b s with ⟨-, e⟩ | ⟨-, e⟩ | ⟨-, e⟩ <;> rw [e]
  · exact invariant_clearEvents ht
  · exact invariant_emitDiag ht .checksumMismatch
  · exact complete_gives_invariant ht

theorem selectVariant_keeps_invariant (h : RegistersLegal c s) (g : Tag) : BlockInvariant c (selectVariant c g s) := by
  rcases selectVariant_cases c g s with ⟨v, -, e⟩ | ⟨-, e⟩ <;> rw [e]
  · exact invariant_clearEvents (registersLegal_install h v)
  · exact invariant_emitDiag (registersLegal_install h c.defaultVariant) .unknownVariant

theorem startDetection_keeps_invariant (h : RegistersLegal c s) : BlockInvariant c (startDetection c s) :=
  have hi := registersLegal_install h (firstVariant c)
  invariant_clearEvents (s := { s.install c (firstVariant c) with
    probeStart := s.now, lastRead := c.sentinel, detectActive := true }) ⟨hi.live, hi.acc, .inl rfl, hi.pub⟩

theorem advanceCandidate_keeps_invariant (h : RegistersLegal c s) : BlockInvariant c (advanceCandidate c s) := by
  rcases advanceCandidate_cases c s with ⟨-, e⟩ | ⟨-, e⟩ <;> rw [e]
  · obtain ⟨live, acc, read, pub⟩ := registersLegal_install h c.defaultVariant
    exact invariant_emitDiag (s := { s.install c c.defaultVariant with detectActive := false })
      ⟨live, acc, read, pub⟩ .detectionExhausted
  · obtain ⟨live, acc, -, pub⟩ := registersLegal_install h (nextVariant c s.variant)
    exact invariant_emitDiag (s := { s.install c (nextVariant c s.variant) with
      probeStart := s.now, lastRead := c.sentinel }) ⟨live, acc, .inl rfl, pub⟩ .candidateAdvanced

theorem checkTick_keeps_invariant (h : RegistersLegal c s) : BlockInvariant c (checkTick c s) := by
  rcases checkTick_cases c s with ⟨-, e⟩ | ⟨-, -, e⟩ | ⟨-, -, -, e⟩ | ⟨-, -, -, e⟩ <;> rw [e]
  · exact invariant_clearEvents h
  · exact invariant_emitDiag (s := { s with detectActive := false }) ⟨h.live, h.acc, h.read, h.pub⟩ .detectionConfirmed
  · exact invariant_clearEvents h
  · exact advanceCandidate_keeps_invariant h

theorem resetDecoder_keeps_invariant (h : RegistersLegal c s) : BlockInvariant c (resetDecoder c s) :=
  invariant_clearEvents (s := { s with dec := resetDec c s.dec })
    ⟨(variantOfDec_resetDec c s.dec).trans h.live, accOfDec_resetDec c s.dec, h.read, h.pub⟩

/-- POLL alone publishes: a positive value, which is then `last_pub` (R230). -/
theorem pollPublish_keeps_invariant (h : RegistersLegal c s) : BlockInvariant c (pollPublish s) := by
  rcases pollPublish_cases s with ⟨hpos, -, e⟩ | ⟨-, e⟩ <;> rw [e]
  · exact ⟨h.live, h.acc, h.read, .inr hpos, ⟨by simp, by simp, by simp, fun _ => rfl, by simp⟩⟩
  · exact invariant_clearEvents h

theorem effect_keeps_invariant (h : BlockInvariant c s) (i : Instr) : BlockInvariant c (effect c i s) := by
  have hr := registersLegal_of_invariant h
  cases i with
  | nop => exact invariant_clearEvents hr
  | byteIn b => exact consumeByte_keeps_invariant hr b
  | tickCheck => exact checkTick_keeps_invariant hr
  | select g => exact selectVariant_keeps_invariant hr g
  | startDetect => exact startDetection_keeps_invariant hr
  | advance => exact advanceCandidate_keeps_invariant hr
  | decReset => exact resetDecoder_keeps_invariant hr
  | poll => exact pollPublish_keeps_invariant hr
  | _ => exact driveSeg_keeps_invariant h _

/-- POR gives the invariant whatever the registers held before it (R270, R271). -/
theorem powerOnReset_gives_invariant (c : Config tw hw) (g : Tag) (s : State tw hw) :
    BlockInvariant c (powerOnReset c g s) := by
  have hr (v : Variant) (a : Bool) (p : Time tw) : RegistersLegal c { s.install c v with
      lastRead := c.sentinel, lastPub := c.sentinel, detectActive := a, probeStart := p } :=
    ⟨variantOfDec_initDec c v, accOfDec_initDec c v, .inl rfl, .inl rfl⟩
  rcases powerOnReset_cases c g s with ⟨-, e⟩ | ⟨v, -, -, e⟩ | ⟨-, -, e⟩ <;> rw [e]
  · exact invariant_clearEvents (hr (firstVariant c) true s.now)
  · exact invariant_clearEvents (hr v false 0)
  · exact invariant_emitDiag (hr c.defaultVariant false 0) .unknownVariant

theorem perform_keeps_invariant (h : BlockInvariant c s) (op : Operation) : BlockInvariant c (perform c op s) := by
  cases op with
  | por g => exact powerOnReset_gives_invariant c g s
  | run i => exact effect_keeps_invariant h i
  | illegal r => exact invariant_emitDiag (registersLegal_of_invariant h) .illegalCommand
  | segOther b => exact driveSeg_keeps_invariant h b

/-! ## The step -/

/-- Fetching changes ports only. -/
theorem fetch_keeps_invariant (h : BlockInvariant c s) : BlockInvariant c (fetch c s).2 := by
  unfold fetch
  split
  · exact h
  · exact invariant_setPorts h _ s.segIn _
  · exact invariant_setPorts h s.now s.segIn _

theorem stepWith_keeps_invariant {t : State tw hw} (h : BlockInvariant c s) (hs : stepWith c s = .next t) :
    BlockInvariant c t := by
  cases hs
  exact perform_keeps_invariant (fetch_keeps_invariant h) _

theorem initial_meets_invariant (c : Config tw hw) : BlockInvariant c (State.initial c) :=
  invariant_of_unpublished
    ⟨variantOfDec_initDec c c.defaultVariant, accOfDec_initDec c c.defaultVariant, .inl rfl, .inl rfl⟩ rfl rfl
    (by simp [State.initial]) (by simp [State.initial])

/-- Settles O60, operation by operation. Neither half needs the parameters to be well formed. -/
theorem stepKeepsInvariantForEveryParameters : Obligations.StepKeepsInvariantForEveryParameters :=
  fun _ _ c _ => ⟨initial_meets_invariant c, fun _ _ => stepWith_keeps_invariant⟩

end Sys2Proof.Machine
end

section
/-! PROOFS. The block of the default parameters: its invariant, its reset, and what a step runs. -/

namespace Sys2Proof.Machine

variable {tw hw : Nat}

/-! ## The invariant -/

/-- Settles O54: a step is a step of the parametric machine, and each of those keeps the invariant. -/
theorem stepKeepsInvariant : Obligations.StepKeepsInvariant :=
  fun s _ h hs => stepWith_keeps_invariant h ((step_eq_stepWith s).symm.trans hs)

/-- Settles O19: the reset state is the initial state of the default parameters. -/
theorem resetMeetsInvariant : Obligations.ResetMeetsInvariant := initial_meets_invariant params

/-! ## Reset -/

theorem freshDecoder_eq_initDec (v : Variant) : freshDecoder v = initDec params v := by cases v <;> rfl

/-- A step at an edge, as the operation of that edge. -/
theorem step_edge {s : State} {e : Edge} {rest : List Input} (h : s.inputs = .edge e :: rest) :
    step s = .next (perform params (edgeOperation params e) { s with now := e.now, inputs := rest }) :=
  (step_eq_stepWith s).trans (stepWith_edge params h)

theorem edgeOperation_of_reset (c : Config tw hw) {e : Edge tw} (h : e.rst = true) :
    edgeOperation c e = .por e.cfgVariant := by
  simp [edgeOperation, h]

theorem step_reset {s : State} {e : Edge} {rest : List Input} (h : s.inputs = .edge e :: rest) (hr : e.rst = true) :
    step s = .next (powerOnReset params e.cfgVariant { s with now := e.now, inputs := rest }) := by
  rw [step_edge h, edgeOperation_of_reset params hr]
  rfl

/-- Settles O16: the step is POR, whose three results the lemmas on `powerOnReset` give. -/
theorem powerOnResetValues : Obligations.PowerOnResetValues := by
  intro s e rest hin hr
  rw [step_reset hin hr]
  refine ⟨fun h0 => ?_, fun v hv => ?_, fun h5 => ?_⟩
  · rw [h0]
    exact congrArg Host.Outcome.next (powerOnReset_unknown params _)
  · rw [hv, powerOnReset_tagOfVariant, freshDecoder_eq_initDec]
    rfl
  · exact congrArg Host.Outcome.next (powerOnReset_invalid params h5 _)

/-- Settles O17: the last clause of `powerOnResetForEveryParameters`, at the default ones. -/
theorem resetStateIsPorAlza : Obligations.ResetStateIsPorAlza := by
  intro s
  obtain ⟨-, -, -, hinit⟩ := powerOnResetForEveryParameters 32 16 params s
  exact hinit

/-- Without `rst` the operation of an edge does not depend on `cfg_variant` (R47). -/
theorem edgeOperation_cfgVariant (c : Config tw hw) {e : Edge tw} (h : e.rst = false) (g : Tag) :
    edgeOperation c { e with cfgVariant := g } = edgeOperation c e := by
  simp [edgeOperation, h]

/-- Settles O13: both steps perform the same operation in the same state. -/
theorem configurationOnlySampledAtReset : Obligations.ConfigurationOnlySampledAtReset := by
  intro s e rest g h
  rw [step_edge rfl, step_edge rfl, edgeOperation_cfgVariant params h]

/-! ## Words of the opcode table -/

theorem decodeTableWord_eq_some {nbits w : Nat} {i : Instr} (h : decodeTableWord nbits w = some i) :
    ∃ pw, tablePortWord nbits w = some pw ∧ decode pw = .ok i := by
  unfold decodeTableWord at h
  split at h
  case h_1 pw hp =>
    cases hd : decode pw with
    | ok j =>
      rw [hd] at h
      exact ⟨pw, hp, hd.trans (congrArg Decoded.ok (Option.some.inj h))⟩
    | rejected r => simp [hd, Decoded.toOption] at h
  case h_2 => cases h

/-- A word of either port, presented at the time the block saw last, is run in the state it was presented in. -/
theorem step_of_presented_word (s : State) {pw : PortWord} {i : Instr} (h : decode pw = .ok i) :
    step { s with inputs := inputOfPortWord s.now pw :: s.inputs } = exec i s := by
  obtain ⟨hcmd, hseg⟩ := stepRunsPresentedInstruction
  cases pw with
  | cmd w => exact hcmd _ ⟨false, 0, true, w, s.now⟩ s.inputs i rfl rfl rfl h
  | seg b => exact hseg _ b s.inputs i rfl h

/-- Settles O10: the table word is a port word, which `withFetchWord` presents. -/
theorem fetchWordRunsNext : Obligations.FetchWordRunsNext := by
  intro s nbits w i h
  obtain ⟨pw, hp, hd⟩ := decodeTableWord_eq_some h
  simp only [State.withFetchWord, hp]
  exact step_of_presented_word s hd

/-! ## The port `variant` -/

theorem tagOfVariant_range (v : Variant) : 1 ≤ (tagOfVariant v).toNat ∧ (tagOfVariant v).toNat ≤ 4 := by
  cases v <;> decide

/-- Settles O53: the port shows the tag of the register's variant. -/
theorem variantPortShowsRealVariant : Obligations.VariantPortShowsRealVariant := by
  intro s
  obtain ⟨hlo, hhi⟩ := tagOfVariant_range s.variant
  exact ⟨hlo, hhi, variantOfTag_tagOfVariant s.variant⟩

end Sys2Proof.Machine
end

section
/-! PROOFS. What the operations do not read, and what they do not write. -/

namespace Sys2Proof.Machine

variable {tw hw : Nat}

/-! ## The time on `now` -/

theorem complete_atTime (c : Config tw hw) (s : State tw hw) (x : Time tw) :
    complete c (atTime s x) = atTime (complete c s) x := by
  by_cases h : heightOf c (decodeDec c s.dec) = c.sentinel <;>
    simp only [complete, atTime_dec, h, if_true, if_false] <;> rfl

theorem consumeByte_atTime (c : Config tw hw) (b : Byte) (s : State tw hw) (x : Time tw) :
    consumeByte c b (atTime s x) = atTime (consumeByte c b s) x := by
  cases h : (stepDec c s.dec b).2 <;> simp only [consumeByte, atTime_dec, h]
  case quiet => rfl
  case complete => exact complete_atTime c { s.clearEvents with dec := (stepDec c s.dec b).1 } x
  case mismatch => rfl

theorem selectVariant_atTime (c : Config tw hw) (g : Tag) (s : State tw hw) (x : Time tw) :
    selectVariant c g (atTime s x) = atTime (selectVariant c g s) x := by
  cases h : variantOfTag g <;> simp only [selectVariant, h] <;> rfl

theorem pollPublish_atTime (s : State tw hw) (x : Time tw) : pollPublish (atTime s x) = atTime (pollPublish s) x := by
  have hq : qualifies (atTime s x) = qualifies s := rfl
  cases h : qualifies s <;> simp only [pollPublish, hq, h] <;> rfl

/-- Apart from the three that R45 names, no instruction reads or writes `now`. -/
theorem effect_atTime (c : Config tw hw) {i : Instr} (hs : i ≠ .startDetect) (ht : i ≠ .tickCheck) (ha : i ≠ .advance)
    (s : State tw hw) (x : Time tw) : effect c i (atTime s x) = atTime (effect c i s) x := by
  cases i with
  | startDetect => exact absurd rfl hs
  | tickCheck => exact absurd rfl ht
  | advance => exact absurd rfl ha
  | byteIn b => exact consumeByte_atTime c b s x
  | select g => exact selectVariant_atTime c g s x
  | poll => exact pollPublish_atTime s x
  | _ => rfl

/-- Settles O14: what the instruction leaves is what it left, with the other time. -/
theorem nowSampledOnlyBySelector : Obligations.NowSampledOnlyBySelector := by
  intro i s t x hs ht ha h
  rw [exec_next_iff] at h ⊢
  subst h
  exact effect_atTime params hs ht ha s x

/-! ## The event registers -/

/-- A command word never decodes to a segment row: it would be the word of the other port. -/
theorem isSegRow_eq_false_of_decode_cmd {c : Config tw hw} {w : CmdWord} {i : Instr} (h : decodeWith c (.cmd w) = .ok i) :
    isSegRow i = false := by
  have hw := encodeWith_of_decodeWith c h
  cases i with
  | nop | byteIn | tickCheck | select | startDetect | advance | decReset | poll => rfl
  | _ => cases hw

/-- Every command starts by clearing the event registers, whatever they hold (R36). -/
theorem effect_withEvents (c : Config tw hw) {i : Instr} (h : isSegRow i = false) (s : State tw hw) (fc dv : Bool)
    (dc : BitVec 3) (pv : Bool) (pval : Height hw) : effect c i (withEvents s fc dv dc pv pval) = effect c i s := by
  cases i with
  | nop | byteIn | tickCheck | select | startDetect | advance | decReset | poll => rfl
  | _ => cases h

theorem perform_edgeOperation_withEvents (c : Config tw hw) (e : Edge tw) (s : State tw hw) (fc dv : Bool)
    (dc : BitVec 3) (pv : Bool) (pval : Height hw) :
    perform c (edgeOperation c e) (withEvents s fc dv dc pv pval) = perform c (edgeOperation c e) s := by
  unfold edgeOperation
  split
  · rfl
  · split
    · split
      · next i hd => exact effect_withEvents c (isSegRow_eq_false_of_decode_cmd hd) s fc dv dc pv pval
      · rfl
    · rfl

/-- The byte of a segment row is what the row drives onto `seg_in` (R115, R130). -/
theorem effect_eq_driveSeg {c : Config tw hw} {b : Byte} {i : Instr} (h : encodeWith c i = .seg b) (s : State tw hw) :
    effect c i s = driveSeg b s := by
  cases i <;> cases h <;> rfl

/-- Row or not, a byte on the segment port is a new level on `seg_in` and nothing more. -/
theorem perform_segOperation (c : Config tw hw) (b : Byte) (s : State tw hw) :
    perform c (segOperation c b) s = driveSeg b s := by
  unfold segOperation
  split
  · next i hd => exact effect_eq_driveSeg (encodeWith_of_decodeWith c hd) s
  · rfl

theorem step_seg {s : State} {b : Byte} {rest : List Input} (h : s.inputs = .seg b :: rest) :
    step s = .next (driveSeg b { s with inputs := rest }) := by
  rw [step_eq_stepWith, stepWith_seg params h, perform_segOperation]

theorem step_idle {s : State} (h : s.inputs = []) : step s = .next s.clearEvents := by
  simp [step_eq_stepWith, stepWith, fetch, h, perform, effect, idle_eq_clearEvents]

/-- Settles O52: at an edge by the operation performed there, on the segment port because a new level is all there is. -/
theorem eventRegistersNeverRead : Obligations.EventRegistersNeverRead := by
  intro s fc dv dc pv pval
  refine ⟨fun e rest hin => ?_, fun hin => ?_, fun b rest t hin ht => ?_⟩
  · have hin' : (withEvents s fc dv dc pv pval).inputs = .edge e :: rest := hin
    rw [step_edge hin, step_edge hin']
    exact congrArg Host.Outcome.next
      (perform_edgeOperation_withEvents params e { s with now := e.now, inputs := rest } fc dv dc pv pval)
  · have hin' : (withEvents s fc dv dc pv pval).inputs = [] := hin
    rw [step_idle hin, step_idle hin', clearEvents_withEvents]
  · have hin' : (withEvents s fc dv dc pv pval).inputs = .seg b :: rest := hin
    rw [step_seg hin, Host.Outcome.next.injEq] at ht
    rw [step_seg hin', ← ht]
    rfl

/-! ## The writers of the registers -/

/-- BYTE_IN writes the decoder, and `last_read` only at the end of a frame (R150, R157). -/
theorem consumeByte_writes (c : Config tw hw) (b : Byte) (s : State tw hw) :
    ∃ x h fc dv dc, consumeByte c b s = withEvents { s with dec := x, lastRead := h } fc dv dc false 0 ∧
      (h ≠ s.lastRead → fc = true) := by
  rcases consumeByte_cases c b s with ⟨-, e⟩ | ⟨-, e⟩ | ⟨-, e⟩
  · exact ⟨_, s.lastRead, false, false, 0, e, fun hn => absurd rfl hn⟩
  · exact ⟨_, s.lastRead, false, true, 1, e, fun hn => absurd rfl hn⟩
  · rcases complete_cases c { s.clearEvents with dec := (stepDec c s.dec b).1 } with ⟨-, e'⟩ | ⟨-, e'⟩
    · exact ⟨_, _, true, true, 2, e.trans e', fun _ => rfl⟩
    · exact ⟨_, _, true, false, 0, e.trans e', fun _ => rfl⟩

/-- SELECT writes the variant and its decoder (R190). -/
theorem selectVariant_writes (c : Config tw hw) (g : Tag) (s : State tw hw) :
    ∃ v dv dc, selectVariant c g s = withEvents { s with variant := v, dec := initDec c v } false dv dc false 0 := by
  rcases selectVariant_cases c g s with ⟨v, -, e⟩ | ⟨-, e⟩
  · exact ⟨v, false, 0, e⟩
  · exact ⟨_, true, 3, e⟩

/-- ADVANCE writes the variant, its decoder and the registers of the session (R200). -/
theorem advanceCandidate_writes (c : Config tw hw) (s : State tw hw) :
    ∃ v a p h dc, advanceCandidate c s = withEvents { s with
        variant := v, dec := initDec c v, detectActive := a, probeStart := p, lastRead := h } false true dc false 0 ∧
      (h = s.lastRead ∨ h = c.sentinel) := by
  rcases advanceCandidate_cases c s with ⟨-, e⟩ | ⟨-, e⟩
  · exact ⟨_, _, _, _, 4, e, .inl rfl⟩
  · exact ⟨_, _, _, _, 6, e, .inr rfl⟩

/-- TICK_CHECK writes what ADVANCE writes, but never `last_read`: where it advances that is the sentinel already (R205). -/
theorem checkTick_writes (c : Config tw hw) (s : State tw hw) :
    ∃ v x a p dv dc, checkTick c s = withEvents { s with
      variant := v, dec := x, detectActive := a, probeStart := p } false dv dc false 0 := by
  rcases checkTick_cases c s with ⟨-, e⟩ | ⟨-, -, e⟩ | ⟨-, -, -, e⟩ | ⟨-, hs, -, e⟩
  · exact ⟨_, _, _, _, _, _, e⟩
  · exact ⟨_, _, _, _, _, _, e⟩
  · exact ⟨_, _, _, _, _, _, e⟩
  · obtain ⟨v, a, p, h, dc, e', hh⟩ := advanceCandidate_writes c s
    have hl : h = s.lastRead := hh.elim id (fun hc => hc.trans hs.symm)
    exact ⟨_, _, _, _, _, _, by rw [e, e', hl]⟩

/-- POLL writes `last_pub` (R230). -/
theorem pollPublish_writes (s : State tw hw) :
    ∃ p pv pval, pollPublish s = withEvents { s with lastPub := p } false false 0 pv pval := by
  rcases pollPublish_cases s with ⟨-, -, e⟩ | ⟨-, e⟩
  · exact ⟨_, _, _, e⟩
  · exact ⟨_, _, _, e⟩

/-- Settles O49, instruction by instruction, from what each writes. -/
theorem writersOfEachRegister : Obligations.WritersOfEachRegister := by
  intro i s t h
  rw [exec_next_iff] at h
  subst h
  cases i with
  | nop => simp [effect, idle_eq_clearEvents, isSegRow]
  | byteIn b =>
    obtain ⟨x, h, fc, dv, dc, e, hread⟩ := consumeByte_writes params b s
    simpa [effect, e, isSegRow] using hread
  | tickCheck =>
    obtain ⟨v, x, a, p, dv, dc, e⟩ := checkTick_writes params s
    simp [effect, e, isSegRow]
  | select g =>
    obtain ⟨v, dv, dc, e⟩ := selectVariant_writes params g s
    simp [effect, e, isSegRow]
  | startDetect => simp [effect, startDetection_eq, isSegRow]
  | advance =>
    obtain ⟨v, a, p, h, dc, e, -⟩ := advanceCandidate_writes params s
    simp [effect, e, isSegRow]
  | decReset => simp [effect, resetDecoder, isSegRow]
  | poll =>
    obtain ⟨p, pv, pval, e⟩ := pollPublish_writes s
    simp [effect, e, isSegRow]
  | _ => simp [effect, isSegRow]

/-! ## `detect_active` -/

/-- ADVANCE that changes `detect_active` is at the last variant (R200). -/
theorem advanceCandidate_detectActive_changed {s : State}
    (h : (advanceCandidate params s).detectActive ≠ s.detectActive) :
    (advanceCandidate params s).detectActive = false ∧ s.variant = .omnidesk ∧
      (advanceCandidate params s).diagCode = 4 ∧ (advanceCandidate params s).variant = .alza := by
  rcases advanceCandidate_cases params s with ⟨hl, e⟩ | ⟨-, e⟩ <;> rw [e] at h ⊢
  · exact ⟨rfl, hl, rfl, rfl⟩
  · exact absurd rfl h

/-- Settles O50: by `writersOfEachRegister` there are three writers, and TICK_CHECK is a confirmation or an ADVANCE. -/
theorem detectActiveChangesAreNamed : Obligations.DetectActiveChangesAreNamed := by
  intro i s t hex hne
  obtain ⟨-, -, hwriters, -⟩ := writersOfEachRegister i s t hex
  rw [exec_next_iff] at hex
  subst hex
  rcases hwriters hne with rfl | rfl | rfl
  · rcases checkTick_cases params s with ⟨-, e⟩ | ⟨-, hl, e⟩ | ⟨-, -, -, e⟩ | ⟨-, -, -, e⟩ <;>
      rw [effect, e] at hne ⊢
    · exact absurd rfl hne
    · exact .inr (.inl ⟨rfl, rfl, hl, rfl, rfl⟩)
    · exact absurd rfl hne
    · exact .inr (.inr ⟨.inl rfl, advanceCandidate_detectActive_changed hne⟩)
  · exact .inl ⟨rfl, rfl⟩
  · exact .inr (.inr ⟨.inr rfl, advanceCandidate_detectActive_changed hne⟩)

end Sys2Proof.Machine
end

section
/-! PROOFS. A decoder that waits for a marker shows nothing of what it holds from before. -/

namespace Sys2Proof.Machine

variable {tw hw : Nat}

/-- The decoder's state without what no byte can bring to light: in WAIT_START everything, and in a frame the slots that the
frame has not written yet. -/
def forgetStale (d : AlzaState) : AlzaState :=
  match d.fstate with
  | .waitStart => initAlza
  | .byte1 => { d with buf := ⟨0, 0, 0, 0⟩ }
  | .byte2 => { d with buf := ⟨d.buf.slot0, 0, 0, 0⟩ }
  | .byte3 => { d with buf := ⟨d.buf.slot0, d.buf.slot1, 0, 0⟩ }
  | .byte4 => { d with buf := ⟨d.buf.slot0, d.buf.slot1, d.buf.slot2, 0⟩ }
  | .checksum => d

theorem forgetStale_of_waitStart {d : AlzaState} (h : d.fstate = .waitStart) : forgetStale d = initAlza := by
  simp [forgetStale, h]

theorem forgetStale_of_checksum {d : AlzaState} (h : d.fstate = .checksum) : forgetStale d = d := by
  simp [forgetStale, h]

/-- Forgetting first changes neither the report of a byte nor, up to forgetting, the state after it. -/
theorem stepAlza_forgetStale (c : Config tw hw) (d : AlzaState) (b : Byte) :
    (stepAlza c (forgetStale d) b).2 = (stepAlza c d b).2 ∧
    forgetStale (stepAlza c (forgetStale d) b).1 = forgetStale (stepAlza c d b).1 := by
  cases hf : d.fstate with
  | waitStart =>
    by_cases hb : b = c.startMarkerAlza <;> simp [forgetStale, stepAlza, initAlza, hf, hb]
  | checksum => simp [forgetStale_of_checksum hf]
  | byte1 | byte2 | byte3 | byte4 => simp [forgetStale, stepAlza, hf]

/-- A frame completes in CHECKSUM only. -/
theorem fstate_of_complete {c : Config tw hw} {d : AlzaState} {b : Byte} (h : (stepAlza c d b).2 = .complete) :
    d.fstate = .checksum := by
  rcases stepAlza_cases c d b with ⟨-, -, e⟩ | ⟨-, -, e⟩ | ⟨-, e⟩ | ⟨-, e⟩ | ⟨-, e⟩ | ⟨-, e⟩ | ⟨hf, -⟩ | ⟨hf, -⟩
  iterate 6 · simp [e] at h
  · exact hf
  · exact hf

theorem trace_cons {S : Type} (D : FrameDecoder S hw) (s : S) (b : Byte) (bs : List Byte) :
    D.trace s (b :: bs) = ((D.step s b).2, if (D.step s b).2 = .complete then some (D.decode (D.step s b).1) else none) ::
      D.trace (D.step s b).1 bs := by
  cases h : (D.step s b).2 <;> simp [FrameDecoder.trace, h]

/-- No stream of bytes tells a decoder from the same decoder after forgetting. -/
theorem trace_forgetStale (c : Config tw hw) (d : AlzaState) (bs : List Byte) :
    (alzaDecoder c).trace (forgetStale d) bs = (alzaDecoder c).trace d bs := by
  induction bs generalizing d with
  | nil => rfl
  | cons b bs ih =>
    obtain ⟨hreport, hnext⟩ := stepAlza_forgetStale c d b
    have htail : (alzaDecoder c).trace (stepAlza c (forgetStale d) b).1 bs =
        (alzaDecoder c).trace (stepAlza c d b).1 bs := by
      rw [← ih, hnext, ih]
    by_cases hc : (stepAlza c d b).2 = .complete
    · rw [forgetStale_of_checksum (fstate_of_complete hc)]
    · simpa [trace_cons, alzaDecoder, hreport, hc] using htail

/-- Settles O31: after forgetting, every decoder in WAIT_START is the newly built one. -/
theorem staleDecoderStateUnobservable : Obligations.StaleDecoderStateUnobservable := by
  intro d d' bs h h'
  rw [← trace_forgetStale params d, ← trace_forgetStale params d', forgetStale_of_waitStart h,
    forgetStale_of_waitStart h']

end Sys2Proof.Machine
end

section
/-! PROOFS. The words of both ports under the default parameters: decode and encode agree, and the rows of the opcode table by
match and mask. -/

namespace Sys2Proof.Machine

theorem params_wellFormed : params.wellFormed = true := by decide

/-- Settles O1: the default parameters are well formed, so O56 speaks of them. -/
theorem decodeEncodeAgree : Obligations.DecodeEncodeAgree :=
  decodeEncodeAgreeForEveryParameters 32 16 params params_wellFormed

/-- A port word decodes to an instruction exactly when it is the instruction's word. -/
theorem decode_eq_ok_iff {w : PortWord} {i : Instr} : decode w = .ok i ↔ encode i = w := by
  obtain ⟨hdecode, hencode⟩ := decodeEncodeAgree
  exact ⟨hencode w i, fun h => h ▸ hdecode i⟩

/-! ## Command words -/

theorem eq_of_fullMask {w m : CmdWord} (h : w &&& 0xFFF = m) : w = m := BitVec.and_allOnes.symm.trans h

theorem cmdOp_and (v w : CmdWord) : cmdOp (v &&& w) = cmdOp v &&& cmdOp w := BitVec.extractLsb'_and

theorem cmdArg_and (v w : CmdWord) : cmdArg (v &&& w) = cmdArg v &&& cmdArg w := BitVec.extractLsb'_and

theorem selectBits_and (a b : Byte) : selectBits (a &&& b) = selectBits a &&& selectBits b := BitVec.extractLsb'_and

/-- SELECT's operand, read from the whole word. -/
theorem selectTag_cmdArg (w : CmdWord) : selectTag (cmdArg w) = w.extractLsb' 0 3 :=
  BitVec.extractLsb'_extractLsb'_of_le (by decide)

/-- SELECT's reserved bits, read from the whole word. -/
theorem selectBits_cmdArg (w : CmdWord) : selectBits (cmdArg w) = w.extractLsb' 3 5 :=
  BitVec.extractLsb'_extractLsb'_of_le (by decide)

/-- Under a mask that covers the field `op`, the match says what `op` is. -/
theorem cmdOp_of_mask {w mask m : CmdWord} (hm : cmdOp mask = BitVec.allOnes 4) (h : w &&& mask = m) :
    cmdOp w = cmdOp m := by
  rw [← h, cmdOp_and, hm, BitVec.and_allOnes]

/-- The words of BYTE_IN by their mask (R91, R92). -/
theorem encode_byteIn_of_mask {w : CmdWord} (h : w &&& 0xF00 = 0x100) : encode (.byteIn (cmdArg w)) = .cmd w :=
  congrArg PortWord.cmd (cmdWord_of_fields (congrArg BitVec.toNat (cmdOp_of_mask rfl h)) rfl)

/-- The words of SELECT by their mask, which covers `op` and the reserved bits (R91, R93). -/
theorem encode_select_of_mask {w : CmdWord} (h : w &&& 0xFF8 = 0x300) :
    encode (.select (selectTag (cmdArg w))) = .cmd w := by
  have hbits : selectBits (cmdArg w) = 0#5 := by
    have hm := congrArg (fun x => selectBits (cmdArg x)) h
    simp only [cmdArg_and, selectBits_and] at hm
    exact BitVec.and_allOnes.symm.trans hm
  refine congrArg PortWord.cmd (cmdWord_of_fields (congrArg BitVec.toNat (cmdOp_of_mask rfl h)) ?_)
  rw [← hbits, select_fields]

/-- Settles O2: each match makes the word the command's own, and the word of a command matches its row. -/
theorem commandRowsByMaskAndMatch : Obligations.CommandRowsByMaskAndMatch := by
  intro w
  have hfull {m : CmdWord} {i : Instr} (hi : encode i = .cmd m) (h : w &&& 0xFFF = m) : decode (.cmd w) = .ok i :=
    decode_eq_ok_iff.2 (hi.trans (congrArg PortWord.cmd (eq_of_fullMask h).symm))
  refine ⟨hfull rfl, fun h => decode_eq_ok_iff.2 (encode_byteIn_of_mask h), hfull rfl, fun h => ?_, hfull rfl, hfull rfl,
    hfull rfl, hfull rfl, fun i h => ?_⟩
  · rw [← selectTag_cmdArg]
    exact decode_eq_ok_iff.2 (encode_select_of_mask h)
  · have hw := decode_eq_ok_iff.1 h
    cases i with
    | byteIn b =>
      cases hw
      exact .inr (.inl (Laws.RowOfTable.byteIn b))
    | select t =>
      cases hw
      exact .inr (.inr (.inr (.inl (Laws.RowOfTable.select t))))
    | nop | tickCheck | startDetect | advance | decReset | poll =>
      cases hw
      decide
    | _ => cases hw

/-! ## Segment bytes -/

theorem segRow_isSome : ∀ (dp : Bool) (d : Fin 10), (segRow dp d.val).isSome = true := by decide

/-- A byte that shows a digit decodes to the digit's row, with bit 7 as the ignored field (R115). -/
theorem decode_of_showsDigit {b : Byte} {d : Fin 10} {i : Instr} (hr : segRow (b.getLsbD 7) d.val = some i)
    (h : ShowsDigit b d) : decode (.seg b) = .ok i := by
  have hr' : segRow (segTopBit b) d.val = some i := hr
  simp [decode, decodeWith, decodeSegWith, segDec_of_showsDigit b d h, hr']

/-- A byte that has a row shows a digit. -/
theorem showsDigit_of_decode {b : Byte} {i : Instr} (h : decode (.seg b) = .ok i) : ∃ d, ShowsDigit b d := by
  cases hs : segDec params b with
  | digit n =>
    obtain ⟨d, -, hd⟩ := showsDigit_of_segDec hs
    exact ⟨d, hd⟩
  | unrec => simp [decode, decodeWith, decodeSegWith, hs] at h

/-- Settles O3: a match is the code of its digit, and the bytes that have a row are those that show a digit. -/
theorem segmentRowsByMaskAndMatch : Obligations.SegmentRowsByMaskAndMatch := by
  intro b
  refine ⟨decode_of_showsDigit (d := 0) rfl, decode_of_showsDigit (d := 1) rfl, decode_of_showsDigit (d := 2) rfl,
    decode_of_showsDigit (d := 3) rfl, decode_of_showsDigit (d := 4) rfl, decode_of_showsDigit (d := 5) rfl,
    decode_of_showsDigit (d := 6) rfl, decode_of_showsDigit (d := 7) rfl, decode_of_showsDigit (d := 8) rfl,
    decode_of_showsDigit (d := 9) rfl, fun ⟨i, h⟩ => showsDigit_of_decode h, fun ⟨d, h⟩ => ?_⟩
  obtain ⟨i, hr⟩ := Option.isSome_iff_exists.1 (segRow_isSome (b.getLsbD 7) d)
  exact ⟨i, decode_of_showsDigit hr h⟩

/-- The row of a digit puts its byte on `seg_in`, changes nothing else, and the ports show the digit (R130, R132). -/
theorem outcomeShows_of_row (s : State) {b : Byte} {d : Fin 10} {i : Instr} (hi : encode i = .seg b)
    (hd : ShowsDigit b d) : OutcomeShows (exec i s) s b d := by
  have hs : segDec params ({ s with segIn := b } : State).segIn = .digit d.val := segDec_of_showsDigit b d hd
  refine ⟨?_, ?_, ?_⟩
  · rw [exec_eq_effect, effect_eq_driveSeg hi]
    rfl
  · rw [State.outputs, outputsWith, hs]
    rfl
  · rw [State.outputs, outputsWith, hs]
    rfl

/-- Settles O20: the byte is the row's word and the digit's code, with bit 7 clear and with bit 7 set. -/
theorem segmentRowsShowTheirDigits : Obligations.SegmentRowsShowTheirDigits := by
  intro s dp
  cases dp <;> refine ⟨?_, ?_, ?_, ?_, ?_, ?_, ?_, ?_, ?_, ?_⟩ <;> exact outcomeShows_of_row s rfl rfl

/-! ## Written-out words, and tags -/

/-- Settles O4, word by word. -/
theorem sampleWordsDecode : Obligations.SampleWordsDecode :=
  ⟨rfl, rfl, rfl, rfl, rfl, rfl, rfl, rfl⟩

theorem tagOfVariant_nextVariant {v : Variant} (h : v ≠ lastVariant params) :
    tagOfVariant (nextVariant params v) = tagOfVariant v + 1 := by
  cases v with
  | omnidesk => exact absurd rfl h
  | alza | jarvis | uplift => rfl

/-- Settles O6: the table of R100 by its lemmas, read from the tag and from the variant. -/
theorem tagsNameVariants : Obligations.TagsNameVariants :=
  ⟨rfl, rfl, rfl, rfl, by decide, variantOfTag_tagOfVariant, fun _ => tagOfVariant_nextVariant⟩

end Sys2Proof.Machine
end

section
/-! PROOFS. What a clock edge performs: the precedence of `rst`, `cmd_valid` and the word, and the illegal words. -/

namespace Sys2Proof.Machine

variable {tw hw : Nat}

/-! ## Precedence at an edge -/

theorem edgeOperation_of_no_command (c : Config tw hw) {e : Edge tw} (hr : e.rst = false) (hv : e.cmdValid = false) :
    edgeOperation c e = .run .nop := by
  simp [edgeOperation, hr, hv]

theorem edgeOperation_of_rejected (c : Config tw hw) {e : Edge tw} {r : Reject} (hr : e.rst = false)
    (hv : e.cmdValid = true) (hd : decodeWith c (.cmd e.cmd) = .rejected r) : edgeOperation c e = .illegal r := by
  simp [edgeOperation, hr, hv, hd]

/-- Settles O11, level by level; the second clause compares with the edge of the command 0x000. -/
theorem clockEdgePrecedence : Obligations.ClockEdgePrecedence := by
  refine fun e => ⟨edgeOperation_of_reset params, fun hr hv => ?_, fun hr hv =>
    ⟨fun i => edgeOperation_of_command params hr hv, fun r => edgeOperation_of_rejected params hr hv⟩⟩
  have hidle := edgeOperation_of_no_command params hr hv
  have hzero : edgeOperation params { e with cmdValid := true, cmd := 0x000 } = .run .nop :=
    edgeOperation_of_command params hr rfl (decode_eq_ok_iff.2 rfl)
  exact ⟨hidle, hidle.trans hzero.symm⟩

/-- Settles O9: the idle edge clears the event registers. -/
theorem nothingPresentedIsIdle : Obligations.NothingPresentedIsIdle := by
  intro s h
  rw [step_idle h, clearEvents_eq_withEvents]

/-! ## Illegal words -/

/-- The operations without operand, by `op` (R91). -/
def noOperandOps : List Nat := [0x0, 0x2, 0x4, 0x5, 0x6, 0x7]

/-- The illegal command words: (a), (b) and (c) of R94. -/
def IllegalWord (w : CmdWord) : Prop :=
  (0x8 ≤ (cmdOp w).toNat) ∨
  ((cmdOp w).toNat ∈ noOperandOps ∧ cmdArg w ≠ 0x00) ∨
  ((cmdOp w).toNat = 0x3 ∧ w.extractLsb' 3 5 ≠ 0)

theorem decodeNoOperand_isRejected_iff (w : CmdWord) (i : Instr) :
    (∃ r, decodeNoOperand w i = .rejected r) ↔ cmdArg w ≠ 0x00 := by
  by_cases h : cmdArg w = 0#8 <;> simp [decodeNoOperand, h]

theorem decodeCmd_isRejected_iff (w : CmdWord) : (∃ r, decodeCmd w = .rejected r) ↔ IllegalWord w := by
  unfold decodeCmd
  split
  case h_2 ho => simp [IllegalWord, noOperandOps, ho]
  case h_4 ho =>
    rw [selectBits_cmdArg]
    by_cases hz : w.extractLsb' 3 5 = 0#5 <;> simp [IllegalWord, noOperandOps, ho, hz]
  case h_9 h0 h1 h2 h3 h4 h5 h6 h7 =>
    simp only [imp_false] at h0 h1 h2 h3 h4 h5 h6 h7
    have hop : 0x8 ≤ (cmdOp w).toNat := by omega
    simp [IllegalWord, hop]
  all_goals
    rename_i ho
    rw [decodeNoOperand_isRejected_iff]
    simp [IllegalWord, noOperandOps, ho]

/-- A word that is not illegal decodes. -/
theorem decode_of_not_illegal {w : CmdWord} (h : ¬IllegalWord w) : ∃ i, decode (.cmd w) = .ok i := by
  cases hd : decode (.cmd w) with
  | ok i => exact ⟨i, rfl⟩
  | rejected r => exact absurd ((decodeCmd_isRejected_iff w).1 ⟨r, hd⟩) h

/-- An illegal word at an edge raises ILLEGAL_COMMAND and does nothing more (R215). -/
theorem step_of_illegal {s : State} {e : Edge} {rest : List Input} (hin : s.inputs = .edge e :: rest)
    (hr : e.rst = false) (hv : e.cmdValid = true) (h : IllegalWord e.cmd) :
    step s = .next (illegalCommand { s with now := e.now, inputs := rest }) := by
  obtain ⟨r, hd⟩ := (decodeCmd_isRejected_iff e.cmd).2 h
  rw [step_edge hin, edgeOperation_of_rejected params hr hv hd]
  rfl

/-- Settles O5: the decoder rejects exactly the illegal words, and a word that decodes is run. -/
theorem illegalWordsOnlyRaiseDiagnostic : Obligations.IllegalWordsOnlyRaiseDiagnostic := by
  obtain ⟨hrun, -⟩ := stepRunsPresentedInstruction
  refine fun s e rest hin hr hv => ⟨step_of_illegal hin hr hv, fun h => ?_⟩
  obtain ⟨i, hd⟩ := decode_of_not_illegal h
  exact ⟨i, hd, hrun s e rest i hin hr hv hd⟩

end Sys2Proof.Machine
end

section
/-! PROOFS. Which events each instruction can leave, said of each operation and then of `exec`. -/

namespace Sys2Proof.Machine

variable {tw hw : Nat}

/-- The tags that name no variant: UNKNOWN and the invalid ones (R100, R101). -/
theorem tag_of_variantOfTag_eq_none : ∀ {g : Tag}, variantOfTag g = none → g = 0 ∨ 5 ≤ g.toNat := by decide

/-- What BYTE_IN can leave: no event, a mismatch, or a completion with UNRECOGNIZED_DIGIT or with a height (R150, R157). -/
theorem consumeByte_events (c : Config tw hw) (b : Byte) (s : State tw hw) :
    (∃ x, consumeByte c b s = withEvents { s with dec := x } false false 0 false 0) ∨
    (∃ x, consumeByte c b s = withEvents { s with dec := x } false true 1 false 0) ∨
    (∃ x, consumeByte c b s = withEvents { s with dec := x, lastRead := c.sentinel } true true 2 false 0) ∨
    (∃ x h, consumeByte c b s = withEvents { s with dec := x, lastRead := h } true false 0 false 0) := by
  rcases consumeByte_cases c b s with ⟨-, e⟩ | ⟨-, e⟩ | ⟨-, e⟩
  · exact .inl ⟨_, e⟩
  · exact .inr (.inl ⟨_, e⟩)
  · rcases complete_cases c { s.clearEvents with dec := (stepDec c s.dec b).1 } with ⟨-, e'⟩ | ⟨-, e'⟩
    · exact .inr (.inr (.inl ⟨_, e.trans e'⟩))
    · exact .inr (.inr (.inr ⟨_, _, e.trans e'⟩))

/-- Settles O51, instruction by instruction, from the cases of each operation. -/
theorem diagnosticsOfEachInstruction : Obligations.DiagnosticsOfEachInstruction := by
  intro i s t hc h
  rw [exec_next_iff] at h
  subst h
  cases i with
  | nop => simp [effect, idle_eq_clearEvents]
  | byteIn b =>
    rcases consumeByte_events params b s with ⟨x, e⟩ | ⟨x, e⟩ | ⟨x, e⟩ | ⟨x, h, e⟩ <;> simp [effect, e]
  | tickCheck =>
    rcases checkTick_cases params s with ⟨-, e⟩ | ⟨ha, -, e⟩ | ⟨-, -, -, e⟩ | ⟨-, -, -, e⟩
    · simp [effect, e]
    · simp [effect, e, ha]
    · simp [effect, e]
    · rcases advanceCandidate_cases params s with ⟨hv, e'⟩ | ⟨hv, e'⟩ <;>
        rw [lastVariant_params] at hv <;> simp [effect, e, e', hv]
  | select g =>
    rcases selectVariant_cases params g s with ⟨v, -, e⟩ | ⟨hg, e⟩
    · simp [effect, e]
    · simpa [effect, e] using tag_of_variantOfTag_eq_none hg
  | startDetect => simp [effect, startDetection_eq]
  | advance =>
    rcases advanceCandidate_cases params s with ⟨hv, e⟩ | ⟨hv, e⟩ <;>
      rw [lastVariant_params] at hv <;> simp [effect, e, hv]
  | decReset => simp [effect, resetDecoder]
  | poll =>
    rcases pollPublish_cases s with ⟨-, -, e⟩ | ⟨-, e⟩ <;> simp [effect, e]
  | _ => cases hc

end Sys2Proof.Machine
end

section
/-! PROOFS. Runs over bytes under ALZA: while the decoder reports nothing only the decoder moves, and the byte that ends a valid
frame completes it. -/

namespace Sys2Proof.Machine

variable {hw : Nat}

/-! ## Streams through a decoder -/

theorem trace_take {S : Type} (D : FrameDecoder S hw) (s : S) (bs : List Byte) (n : Nat) :
    D.trace s (bs.take n) = (D.trace s bs).take n := by
  induction bs generalizing s n with
  | nil => simp [FrameDecoder.trace]
  | cons b bs ih =>
    cases n with
    | zero => rfl
    | succ n => simp [trace_cons, ih]

/-- The decoder reports nothing over this stream: no completion and no mismatch. -/
def Quiet {S : Type} (D : FrameDecoder S hw) (s : S) (bs : List Byte) : Prop := ∀ r ∈ D.trace s bs, r.1 = .quiet

theorem quiet_cons {S : Type} (D : FrameDecoder S hw) (s : S) (b : Byte) (bs : List Byte) :
    Quiet D s (b :: bs) ↔ (D.step s b).2 = .quiet ∧ Quiet D (D.step s b).1 bs := by
  simp [Quiet, trace_cons]

theorem quiet_nil {S : Type} (D : FrameDecoder S hw) (s : S) : Quiet D s [] := nofun

theorem quiet_take {S : Type} {D : FrameDecoder S hw} {s : S} {bs : List Byte} (h : Quiet D s bs) (n : Nat) :
    Quiet D s (bs.take n) := by
  intro r hr
  rw [trace_take] at hr
  exact h r (List.mem_of_mem_take hr)

/-! ## Runs over bytes that report nothing -/

/-- The block after bytes that reported nothing: the decoder has moved, the events are clear, the time is the last byte's. -/
def afterQuiet (s : State) (d : AlzaState) (x : Time) : State :=
  withEvents { s with dec := .alza d, now := x } false false 0 false 0

theorem runInputs_quiet_byte {s : State} {d : AlzaState} {x : Time} {b : Byte} (hd : s.dec = .alza d)
    (hq : ((alzaDecoder params).step d b).2 = .quiet) (l : List Input) :
    runInputs s (commandInput x (.byteIn b) :: l) = runInputs (afterQuiet s ((alzaDecoder params).step d b).1 x) l := by
  rw [runInputs_command s x rfl]
  exact congrArg (runInputs · l) (consumeByte_of_quiet (s := atTime s x) hd (Prod.ext rfl hq))

/-- A run over at least one byte, all of them reported quiet, whatever is presented after them. -/
theorem runInputs_quiet {s : State} {d : AlzaState} {bs : List (Time × Byte)} (hd : s.dec = .alza d) (hne : bs ≠ [])
    (hq : Quiet (alzaDecoder params) d (bs.map Prod.snd)) (l : List Input) :
    ∃ x, runInputs s (byteInputs bs ++ l) =
      runInputs (afterQuiet s ((alzaDecoder params).feed d (bs.map Prod.snd)) x) l := by
  induction bs generalizing s d with
  | nil => exact absurd rfl hne
  | cons y ys ih =>
    obtain ⟨hy, hys⟩ := (quiet_cons _ _ _ _).1 hq
    have hstep := runInputs_quiet_byte (x := y.1) hd hy (byteInputs ys ++ l)
    by_cases h : ys = []
    · subst h
      exact ⟨y.1, hstep⟩
    · obtain ⟨x, hx⟩ := ih (s := afterQuiet s ((alzaDecoder params).step d y.2).1 y.1) rfl h hys
      exact ⟨x, hstep.trans hx⟩

/-- A run over the first `n` of such bytes, at least one, with nothing after them. -/
theorem runInputs_quiet_take {s : State} {d : AlzaState} {bs : List (Time × Byte)} {n : Nat} (hd : s.dec = .alza d)
    (hne : bs ≠ []) (hn : 1 ≤ n) (hq : Quiet (alzaDecoder params) d (bs.map Prod.snd)) :
    ∃ d' x, runInputs s ((byteInputs bs).take n) = .next (afterQuiet s d' x) := by
  have hne' : bs.take n ≠ [] := by
    rw [Ne, List.take_eq_nil_iff, not_or]
    exact ⟨by omega, hne⟩
  have hq' : Quiet (alzaDecoder params) d ((bs.take n).map Prod.snd) := by
    rw [List.map_take]
    exact quiet_take hq n
  obtain ⟨x, hx⟩ := runInputs_quiet hd hne' hq' []
  rw [List.append_nil, runInputs_nil, byteInputs, List.map_take] at hx
  exact ⟨_, x, hx⟩

/-! ## The frame -/

/-- The first five bytes of a frame report nothing. -/
theorem quiet_frame_body {d : AlzaState} (h : d.fstate = .waitStart) (b1 b2 b3 b4 : Byte) :
    Quiet (alzaDecoder params) d [0x5A, b1, b2, b3, b4] := by
  simp [quiet_cons, quiet_nil, alzaDecoder, stepAlza, h]

/-- The decoder with the payload of a frame in its buffer and the payload's sum in `acc`. -/
def holdingPayload (f : FState) (b1 b2 b3 b4 : Byte) : AlzaState := ⟨f, b1 + b2 + b3 + b4, ⟨b1, b2, b3, b4⟩⟩

/-- The first five bytes of a frame leave its payload in CHECKSUM (R105, R151 to R153). -/
theorem feed_frame_body {d : AlzaState} (h : d.fstate = .waitStart) (b1 b2 b3 b4 : Byte) :
    (alzaDecoder params).feed d [0x5A, b1, b2, b3, b4] = holdingPayload .checksum b1 b2 b3 b4 := by
  simp [FrameDecoder.feed, alzaDecoder, stepAlza, h, holdingPayload]

/-- The byte that ends a valid frame: a completion that stores the height, with a diagnostic only where there is none. -/
theorem consumeByte_completes {s : State} {d : AlzaState} (hd : s.dec = .alza d) (hf : d.fstate = .checksum) :
    ∃ dv dc, consumeByte params d.acc s = withEvents { s with
        dec := .alza { d with fstate := .waitStart },
        lastRead := heightOf params (decodeAlza params { d with fstate := .waitStart }) } true dv dc false 0 ∧
      (dv = true → decodeAlza params { d with fstate := .waitStart } = none) := by
  cases hx : decodeAlza params { d with fstate := .waitStart } with
  | some h => exact ⟨false, 0, consumeByte_of_height params_wellFormed hd hf hx, nofun⟩
  | none => exact ⟨true, 2, consumeByte_of_no_height hd hf hx, fun _ => rfl⟩

/-- The height of a payload that shows three digits (R160 to R162). -/
theorem heightOf_holdingPayload {f : FState} {b1 b2 b3 : Byte} {d0 d1 d2 : Fin 10} (b4 : Byte) (h0 : ShowsDigit b1 d0)
    (h1 : ShowsDigit b2 d1) (h2 : ShowsDigit b3 d2) :
    heightOf params (decodeAlza params (holdingPayload f b1 b2 b3 b4)) =
      if b2.getLsbD 7 then BitVec.ofNat 16 (100 * d0.val + 10 * d1.val + d2.val)
      else BitVec.ofNat 16 (10 * (100 * d0.val + 10 * d1.val + d2.val)) :=
  (heightOf_of_digits h0 h1 h2).trans (ofNat_assembleDigits 16 _ _ _ _)

/-- A run over the six bytes of a valid frame. -/
theorem runInputs_valid_frame {s : State} {d : AlzaState} (hd : s.dec = .alza d) (hf : d.fstate = .waitStart)
    (b1 b2 b3 b4 : Byte) (t0 t1 t2 t3 t4 t5 : Time) :
    ∃ dv dc, runInputs s (byteInputs [(t0, 0x5A), (t1, b1), (t2, b2), (t3, b3), (t4, b4), (t5, b1 + b2 + b3 + b4)]) =
        .next (withEvents { s with
          dec := .alza (holdingPayload .waitStart b1 b2 b3 b4), now := t5,
          lastRead := heightOf params (decodeAlza params (holdingPayload .waitStart b1 b2 b3 b4)) } true dv dc false 0) ∧
      (dv = true → decodeAlza params (holdingPayload .waitStart b1 b2 b3 b4) = none) := by
  obtain ⟨x, hx⟩ := runInputs_quiet (bs := [(t0, 0x5A), (t1, b1), (t2, b2), (t3, b3), (t4, b4)]) hd (by simp)
    (quiet_frame_body hf b1 b2 b3 b4) [commandInput t5 (.byteIn (b1 + b2 + b3 + b4))]
  obtain ⟨dv, dc, e, hdiag⟩ := consumeByte_completes
    (s := atTime (afterQuiet s (holdingPayload .checksum b1 b2 b3 b4) x) t5) rfl rfl
  refine ⟨dv, dc, hx.trans ?_, hdiag⟩
  simp only [List.map, feed_frame_body hf]
  rw [runInputs_command _ t5 rfl]
  exact congrArg Host.Outcome.next e

/-- Settles O33: the body of the frame is quiet, so each beginning of it is, and the sixth byte meets CHECKSUM with the sum. -/
theorem validFrameCompletesOnSixthByte : Obligations.ValidFrameCompletesOnSixthByte := by
  intro s d b1 b2 b3 b4 t0 t1 t2 t3 t4 t5 hd hf
  refine ⟨fun n hn _ => ?_, ?_⟩
  · obtain ⟨d', x, hx⟩ := runInputs_quiet_take (bs := [(t0, 0x5A), (t1, b1), (t2, b2), (t3, b3), (t4, b4)]) hd (by simp)
      hn (quiet_frame_body hf b1 b2 b3 b4)
    exact ⟨_, hx, rfl, rfl⟩
  · obtain ⟨dv, dc, hrun, hdiag⟩ := runInputs_valid_frame hd hf b1 b2 b3 b4 t0 t1 t2 t3 t4 t5
    refine ⟨_, hrun, rfl, rfl, fun d0 d1 d2 h0 h1 h2 => ⟨heightOf_holdingPayload b4 h0 h1 h2, ?_⟩, rfl, rfl, rfl, rfl, rfl⟩
    have hsome := decodeAlza_of_digits (d := holdingPayload .waitStart b1 b2 b3 b4) h0 h1 h2
    exact Bool.eq_false_iff.2 fun h => nomatch hsome.symm.trans (hdiag h)

end Sys2Proof.Machine
end

section
/-! PROOFS. The digit codec and its combinational port: SEGDEC ignores the top bit, and the port and the clocked block do not
see each other. -/

namespace Sys2Proof.Machine

variable {tw hw : Nat}

/-! ## The top bit -/

theorem segPattern_xor_topBit (b : Byte) : segPattern (b ^^^ 0x80) = segPattern b :=
  BitVec.extractLsb'_xor.trans BitVec.xor_zero

/-- SEGDEC looks at the pattern only, so the top bit is ignored (R131, R134). -/
theorem segDec_xor_topBit (c : Config tw hw) (b : Byte) : segDec c (b ^^^ 0x80) = segDec c b := by
  rw [segDec, segPattern_xor_topBit]
  rfl

/-- Settles O29: a height reads slots 0 and 2 through SEGDEC alone, and slot 3 not at all. -/
theorem onlySlotOneCarriesFlag : Obligations.OnlySlotOneCarriesFlag := by
  refine fun d m => ⟨?_, ?_, rfl⟩ <;> simp only [decodeAlza, segDec_xor_topBit, decimalFlag]

/-! ## The corner cases of SEGDEC -/

theorem showsDigit_codeOfDigit : ∀ d, ShowsDigit (codeOfDigit d) d := by
  unfold ShowsDigit
  decide

/-- Bytes of one digit have one pattern: the digit's code (R134). -/
theorem pattern_eq_of_segDec_eq {b b' : Byte} {n : Nat} (h : segDec params b = .digit n)
    (h' : segDec params b' = .digit n) : b &&& 0x7F = b' &&& 0x7F := by
  obtain ⟨d, hd, hb⟩ := showsDigit_of_segDec h
  obtain ⟨d', hd', hb'⟩ := showsDigit_of_segDec h'
  obtain rfl : d = d' := Fin.ext (hd.trans hd'.symm)
  exact hb.trans hb'.symm

/-- Ten codes, each with the top bit clear and set. -/
theorem count_recognized_bytes :
    ((List.range 256).filter (fun n => segOkOut (segDec params (BitVec.ofNat 8 n)))).length = 20 := by
  decide

/-- Settles O22, clause by clause; the code of a digit reaches it. -/
theorem segdecCornerCases : Obligations.SegdecCornerCases :=
  ⟨fun b => (segDec_xor_topBit params b).symm, by decide, rfl, rfl, rfl, count_recognized_bytes,
    fun _ _ _ => pattern_eq_of_segDec_eq,
    fun d hd => ⟨codeOfDigit ⟨d, hd⟩, segDec_of_showsDigit _ ⟨d, hd⟩ (showsDigit_codeOfDigit _)⟩⟩

/-! ## The segment port -/

theorem outputs_segDigit (s : State) : s.outputs.segDigit = segDigitOut (segDec params s.segIn) := rfl

theorem outputs_segOk (s : State) : s.outputs.segOk = segOkOut (segDec params s.segIn) := rfl

/-- Settles O21: a byte on the port is a new level there, and the outputs show what SEGDEC answers for it. -/
theorem segmentPortAnswersEveryByte : Obligations.SegmentPortAnswersEveryByte := by
  intro s b rest hin
  refine ⟨step_seg hin, fun d hd => ?_, fun hnone => ?_⟩ <;> rw [outputs_segDigit, outputs_segOk]
  · rw [segDec_of_showsDigit b d hd]
    exact ⟨rfl, rfl⟩
  · rw [segDec_of_showsNone b hnone]
    exact ⟨rfl, rfl⟩

theorem powerOnReset_segIn (c : Config tw hw) (g : Tag) (s : State tw hw) (x : Byte) :
    powerOnReset c g { s with segIn := x } = { powerOnReset c g s with segIn := x } := by
  unfold powerOnReset configApply
  split
  · rfl
  · cases variantOfTag g <;> rfl

/-- No operation at a clock edge reads or writes `seg_in` (R130). -/
theorem perform_edgeOperation_segIn (e : Edge) (s : State) (x : Byte) :
    perform params (edgeOperation params e) { s with segIn := x } =
      { perform params (edgeOperation params e) s with segIn := x } := by
  rcases edgeOperation_cases e with ⟨-, ho⟩ | ⟨-, -, ho⟩ | ⟨i, -, -, hd, ho⟩ | ⟨r, -, -, -, ho⟩ <;> rw [ho]
  · exact powerOnReset_segIn params e.cfgVariant s x
  · rfl
  · exact effect_segIn params (isSegRow_eq_false_of_decode_cmd hd) s x
  · rfl

/-- With the level that is there already: an edge leaves `seg_in` alone. -/
theorem perform_edgeOperation_keeps_segIn (e : Edge) (s : State) :
    (perform params (edgeOperation params e) s).segIn = s.segIn :=
  (congrArg State.segIn (perform_edgeOperation_segIn e s s.segIn) :)

/-- Settles O23: setting `seg_in` before an edge is setting it after. -/
theorem segmentPortIndependentOfBlock : Obligations.SegmentPortIndependentOfBlock := by
  refine ⟨fun s t e rest x hin ht => ?_, fun s s' h => ?_⟩
  · have hin' : ({ s with segIn := x } : State).inputs = .edge e :: rest := hin
    rw [step_edge hin, Host.Outcome.next.injEq] at ht
    subst ht
    have hset := perform_edgeOperation_segIn e { s with now := e.now, inputs := rest } x
    exact ⟨perform_edgeOperation_keeps_segIn e _, (step_edge hin').trans (congrArg Host.Outcome.next hset)⟩
  · rw [outputs_segDigit, outputs_segDigit, outputs_segOk, outputs_segOk, h]
    exact ⟨rfl, rfl⟩

end Sys2Proof.Machine
end

section
/-! PROOFS. BYTE_IN and DEC_RESET, whichever decoder is live, said once by what that decoder reports; then each row of the ALZA
decoder, the OPEN decoders, and a frame that fails its checksum. -/

namespace Sys2Proof.Machine

variable {tw hw : Nat} {c : Config tw hw} {s : State tw hw}

/-! ## BYTE_IN by the report of the live decoder -/

theorem consumeByte_of_report_quiet {x : Dec} {b : Byte} (h : stepDec c s.dec b = (x, .quiet)) :
    consumeByte c b s = withEvents { s with dec := x } false false 0 false 0 := by
  rw [consumeByte, h]
  rfl

theorem consumeByte_of_report_mismatch {x : Dec} {b : Byte} (h : stepDec c s.dec b = (x, .mismatch)) :
    consumeByte c b s = withEvents { s with dec := x } false true 1 false 0 := by
  rw [consumeByte, h]
  rfl

theorem consumeByte_of_report_complete {x : Dec} {b : Byte} (h : stepDec c s.dec b = (x, .complete)) :
    consumeByte c b s = complete c { s.clearEvents with dec := x } := by
  rw [consumeByte, h]

/-! ## The rows of the ALZA decoder -/

/-- In WAIT_START a byte other than the marker is passed over (R151). -/
theorem stepAlza_of_not_marker {d : AlzaState} {b : Byte} (hf : d.fstate = .waitStart) (hb : b ≠ c.startMarkerAlza) :
    stepAlza c d b = (d, .quiet) := by
  simp [stepAlza, hf, hb]

/-- BYTE_IN under ALZA while no frame ends. -/
theorem execByteIn_of_quiet {s : State} {d d' : AlzaState} {b : Byte} (hd : s.dec = .alza d)
    (hq : stepAlza params d b = (d', .quiet)) :
    exec (.byteIn b) s = .next (withEvents { s with dec := .alza d' } false false 0 false 0) :=
  congrArg Host.Outcome.next (consumeByte_of_quiet hd hq)

/-- BYTE_IN under ALZA with a byte in CHECKSUM that is not `acc` (R155). -/
theorem consumeByte_of_bad_checksum {d : AlzaState} {b : Byte} (hd : s.dec = .alza d) (hf : d.fstate = .checksum)
    (hb : b ≠ d.acc) : consumeByte c b s =
      withEvents { s with dec := .alza { d with fstate := .waitStart, acc := 0 } } false true 1 false 0 :=
  consumeByte_of_report_mismatch (by simp [hd, stepDec, alzaDecoder, stepAlza, hf, hb])

/-- Settles O24: the quiet rows and the mismatch, each with the row of `stepAlza` it is. -/
theorem byteInAlzaTransitions : Obligations.ByteInAlzaTransitions := by
  refine fun s d b hd => ⟨fun hf hb => ?_, fun hf hb => ?_, fun hf => ?_, fun hf => ?_, fun hf => ?_, fun hf => ?_,
    fun hf hb => ?_⟩
  · exact execByteIn_of_quiet hd (by simp [stepAlza, hf, hb])
  · have h := execByteIn_of_quiet hd (stepAlza_of_not_marker hf hb)
    rwa [← hd] at h
  · exact execByteIn_of_quiet hd (by simp [stepAlza, hf])
  · exact execByteIn_of_quiet hd (by simp [stepAlza, hf])
  · exact execByteIn_of_quiet hd (by simp [stepAlza, hf])
  · exact execByteIn_of_quiet hd (by simp [stepAlza, hf])
  · exact congrArg Host.Outcome.next (consumeByte_of_bad_checksum hd hf hb)

/-- Settles O25: three digits make a height that is stored as itself, one unrecognized digit makes none. -/
theorem byteInAlzaCompletion : Obligations.ByteInAlzaCompletion := by
  refine fun s d hd hf => ⟨fun d0 d1 d2 h0 h1 h2 => ?_, fun hn => ?_⟩
  · have hx := decodeAlza_of_digits (d := { d with fstate := .waitStart }) h0 h1 h2
    have e := consumeByte_of_height params_wellFormed hd hf hx
    rw [stored_ofNat (assembleDigits_lt _ d0 d1 d2), ofNat_assembleDigits] at e
    exact congrArg Host.Outcome.next e
  · have hx := decodeAlza_of_unrecognized (d := { d with fstate := .waitStart }) hn
    exact congrArg Host.Outcome.next (consumeByte_of_no_height hd hf hx)

/-! ## The OPEN decoders -/

/-- Settles O26: each of the three is live under its own tag, and from there on only its report and its decode matter. -/
theorem byteInOpenDecoders : Obligations.ByteInOpenDecoders := by
  intro s k b D mk hD hk
  have hstep : stepDec params s.dec b = (mk (D.step k b).1, (D.step k b).2) := by
    rw [hk]
    rcases hD with ⟨rfl, rfl⟩ | ⟨rfl, rfl⟩ | ⟨rfl, rfl⟩ <;> rfl
  have hdecode : decodeDec params (mk (D.step k b).1) = D.decode (D.step k b).1 := by
    rcases hD with ⟨rfl, rfl⟩ | ⟨rfl, rfl⟩ | ⟨rfl, rfl⟩ <;> rfl
  rw [exec_next_iff]
  cases hr : (D.step k b).2 with
  | quiet => exact consumeByte_of_report_quiet (hr ▸ hstep)
  | mismatch => exact consumeByte_of_report_mismatch (hr ▸ hstep)
  | complete =>
    refine (consumeByte_of_report_complete (hr ▸ hstep)).trans ?_
    cases hx : D.decode (D.step k b).1 with
    | some h => exact complete_of_height (hdecode.trans hx)
    | none => exact complete_of_unrecognized (hdecode.trans hx)

/-! ## DEC_RESET -/

theorem execDecReset_eq (s : State) : exec .decReset s =
    .next (withEvents { s with dec := resetDec params s.dec } false false 0 false 0) := rfl

/-- Settles O27: DEC_RESET writes `resetDec` of the live decoder, which each tag gives. -/
theorem decResetOnlyResetsFraming : Obligations.DecResetOnlyResetsFraming := by
  refine ⟨rfl, fun s => ⟨fun d hd => ?_, fun k hk => ?_, fun k hk => ?_, fun k hk => ?_⟩⟩
  · rw [execDecReset_eq, hd]
    rfl
  all_goals
    rw [execDecReset_eq, hk]
    rfl

/-! ## The six bytes of a frame -/

/-- The byte after the payload ends the frame, whatever it is. -/
theorem fstate_stepAlza_of_checksum {d : AlzaState} (hf : d.fstate = .checksum) (b : Byte) :
    (stepAlza c d b).1.fstate = .waitStart := by
  by_cases hb : b = d.acc <;> simp [stepAlza, hf, hb]

/-- Settles O32: the marker and the payload move one state each, and the sixth byte leaves CHECKSUM. -/
theorem fiveBytesFollowTheMarker : Obligations.FiveBytesFollowTheMarker := by
  intro d b1 b2 b3 b4 x hf
  have hbody := feed_frame_body hf b1 b2 b3 b4
  refine ⟨?_, ?_, ?_, ?_, congrArg AlzaState.fstate hbody, ?_⟩
  iterate 4 · simp [FrameDecoder.feed, alzaDecoder, stepAlza, hf]
  · have hlast : (alzaDecoder params).feed d [0x5A, b1, b2, b3, b4, x] =
        (stepAlza params ((alzaDecoder params).feed d [0x5A, b1, b2, b3, b4]) x).1 := rfl
    rw [hlast, hbody]
    exact fstate_stepAlza_of_checksum rfl x

/-- A run over six bytes with a wrong checksum, from WAIT_START (R155). -/
theorem runInputs_bad_frame {s : State} {d : AlzaState} {b1 b2 b3 b4 x : Byte} (hd : s.dec = .alza d)
    (hf : d.fstate = .waitStart) (hx : x ≠ b1 + b2 + b3 + b4) (t0 t1 t2 t3 t4 t5 : Time) :
    runInputs s (byteInputs [(t0, 0x5A), (t1, b1), (t2, b2), (t3, b3), (t4, b4), (t5, x)]) = .next (withEvents
      { s with dec := .alza ⟨.waitStart, 0, ⟨b1, b2, b3, b4⟩⟩, now := t5 } false true 1 false 0) := by
  obtain ⟨t, ht⟩ := runInputs_quiet (bs := [(t0, 0x5A), (t1, b1), (t2, b2), (t3, b3), (t4, b4)]) hd (by simp)
    (quiet_frame_body hf b1 b2 b3 b4) [commandInput t5 (.byteIn x)]
  refine ht.trans ?_
  simp only [List.map, feed_frame_body hf]
  rw [runInputs_command _ t5 rfl]
  exact congrArg Host.Outcome.next (consumeByte_of_bad_checksum
    (s := atTime (afterQuiet s (holdingPayload .checksum b1 b2 b3 b4) t) t5) rfl rfl hx)

/-- Settles O34: the first five bytes are quiet, so each beginning of them is, and the sixth meets CHECKSUM with another sum. -/
theorem badFrameIsDiscarded : Obligations.BadFrameIsDiscarded := by
  intro s d b1 b2 b3 b4 x t0 t1 t2 t3 t4 t5 hd hf hx
  have hrun := runInputs_bad_frame hd hf hx t0 t1 t2 t3 t4 t5
  refine ⟨fun n hn hn6 => ?_, hrun⟩
  obtain rfl | hn5 : n = 6 ∨ n ≤ 5 := by omega
  · exact ⟨_, hrun, rfl, rfl⟩
  · obtain ⟨d', t, ht⟩ := runInputs_quiet_take (bs := [(t0, 0x5A), (t1, b1), (t2, b2), (t3, b3), (t4, b4)]) hd (by simp)
      hn (quiet_frame_body hf b1 b2 b3 b4)
    have hsplit : byteInputs [(t0, 0x5A), (t1, b1), (t2, b2), (t3, b3), (t4, b4), (t5, x)] =
        byteInputs [(t0, 0x5A), (t1, b1), (t2, b2), (t3, b3), (t4, b4)] ++ [commandInput t5 (.byteIn x)] := rfl
    rw [hsplit, List.take_append_of_le_length hn5]
    exact ⟨_, ht, rfl, rfl⟩

end Sys2Proof.Machine
end

section
/-! PROOFS. The heights of the ALZA decoder, and the decoder contract: at every moment the stream ends with the frame in
progress, which the decoder's registers spell out. -/

namespace Sys2Proof.Machine

/-! ## Heights -/

/-- Three digits of a payload, or one slot that shows none. -/
theorem digits_or_unrecognized (m : FrameBuf) :
    (∃ d0 d1 d2, ShowsDigit m.slot0 d0 ∧ ShowsDigit m.slot1 d1 ∧ ShowsDigit m.slot2 d2) ∨
    ((∀ k, ¬ShowsDigit m.slot0 k) ∨ (∀ k, ¬ShowsDigit m.slot1 k) ∨ (∀ k, ¬ShowsDigit m.slot2 k)) := by
  by_contra! h
  obtain ⟨hnot, ⟨d0, h0⟩, ⟨d1, h1⟩, ⟨d2, h2⟩⟩ := h
  exact hnot d0 d1 d2 h0 h1 h2

theorem decodeAlza_eq_none_iff (d : AlzaState) : decodeAlza params d = none ↔
    (∀ k, ¬ShowsDigit d.buf.slot0 k) ∨ (∀ k, ¬ShowsDigit d.buf.slot1 k) ∨ (∀ k, ¬ShowsDigit d.buf.slot2 k) := by
  refine ⟨fun hn => ?_, decodeAlza_of_unrecognized⟩
  rcases digits_or_unrecognized d.buf with ⟨d0, d1, d2, h0, h1, h2⟩ | h
  · exact nomatch hn.symm.trans (decodeAlza_of_digits h0 h1 h2)
  · exact h

/-- No reported height is above 999.0 cm (R162). -/
theorem toNat_le_of_decodeAlza {d : AlzaState} {h : Reading} (hs : decodeAlza params d = some h) : h.toNat ≤ 9990 := by
  rcases digits_or_unrecognized d.buf with ⟨d0, d1, d2, h0, h1, h2⟩ | hn
  · obtain rfl := Option.some.inj ((decodeAlza_of_digits h0 h1 h2).symm.trans hs)
    rw [BitVec.toNat_ofNat]
    exact (Nat.mod_le _ _).trans (assembleDigits_le _ d0 d1 d2)
  · exact nomatch hs.symm.trans (decodeAlza_of_unrecognized hn)

/-- The stored height as a signed number is the assembled one (R40, R160). -/
theorem toInt_heightOf_of_digits {d : AlzaState} {d0 d1 d2 : Fin 10} (h0 : ShowsDigit d.buf.slot0 d0)
    (h1 : ShowsDigit d.buf.slot1 d1) (h2 : ShowsDigit d.buf.slot2 d2) :
    (heightOf params (decodeAlza params d)).toInt = assembleDigits (decimalFlag d.buf) d0.val d1.val d2.val := by
  have hlt := assembleDigits_lt (decimalFlag d.buf) d0 d1 d2
  have hstored : (BitVec.ofNat 16 (assembleDigits (decimalFlag d.buf) d0.val d1.val d2.val)).toNat =
      assembleDigits (decimalFlag d.buf) d0.val d1.val d2.val := Nat.mod_eq_of_lt (by omega)
  rw [heightOf_of_digits h0 h1 h2, BitVec.toInt_eq_toNat_of_lt (by omega), hstored]

theorem params_heightToReal (h : Height) : params.heightToReal h = (h.toInt : Rat) / 10 := rfl

/-- Settles O28: with the flag known the assembled number is DOC's, in tenths. -/
theorem heightIsDocFormula : Obligations.HeightIsDocFormula := by
  intro d d0 d1 d2 h0 h1 h2
  rw [params_heightToReal, toInt_heightOf_of_digits h0 h1 h2]
  refine ⟨fun hflag => ?_, fun hflag => ?_⟩
  · have hsum : assembleDigits (decimalFlag d.buf) d0.val d1.val d2.val = 100 * d0.val + 10 * d1.val + d2.val :=
      if_pos hflag
    rw [hsum]
    push_cast
    exact ⟨by ring, rfl, by omega⟩
  · have hsum : assembleDigits (decimalFlag d.buf) d0.val d1.val d2.val = 10 * (100 * d0.val + 10 * d1.val + d2.val) :=
      if_neg (Bool.eq_false_iff.1 hflag)
    rw [hsum]
    push_cast
    exact ⟨by ring, rfl, by omega⟩

/-! ## The frame in progress -/

/-- The bytes of the frame in progress, as the registers hold them: the marker and the payload so far. -/
def frameSoFar (d : AlzaState) : List Byte :=
  match d.fstate with
  | .waitStart => []
  | .byte1 => [0x5A]
  | .byte2 => [0x5A, d.buf.slot0]
  | .byte3 => [0x5A, d.buf.slot0, d.buf.slot1]
  | .byte4 => [0x5A, d.buf.slot0, d.buf.slot1, d.buf.slot2]
  | .checksum => [0x5A, d.buf.slot0, d.buf.slot1, d.buf.slot2, d.buf.slot3]

theorem frameSoFar_of_checksum {d : AlzaState} (hf : d.fstate = .checksum) :
    frameSoFar d = [0x5A, d.buf.slot0, d.buf.slot1, d.buf.slot2, d.buf.slot3] := by
  simp [frameSoFar, hf]

/-- A byte is added to the frame in progress, or there is none after it (R156). -/
theorem frameSoFar_stepAlza (d : AlzaState) (b : Byte) :
    frameSoFar (stepAlza params d b).1 <:+ frameSoFar d ++ [b] := by
  rcases stepAlza_cases params d b with
    ⟨hf, hb, e⟩ | ⟨hf, -, e⟩ | ⟨hf, e⟩ | ⟨hf, e⟩ | ⟨hf, e⟩ | ⟨hf, e⟩ | ⟨-, -, e⟩ | ⟨-, -, e⟩ <;> rw [e]
  · simp [frameSoFar, hf, hb]
  iterate 5 · simp [frameSoFar, hf]
  iterate 2 · exact List.nil_suffix

/-- So a stream ends with the frame in progress. -/
theorem frameSoFar_feed (d : AlzaState) (xs : List Byte) :
    frameSoFar ((alzaDecoder params).feed d xs) <:+ frameSoFar d ++ xs := by
  induction xs generalizing d with
  | nil => simp [FrameDecoder.feed]
  | cons b bs ih =>
    have hb : frameSoFar (stepAlza params d b).1 ++ bs <:+ frameSoFar d ++ [b] ++ bs := by
      obtain ⟨t, ht⟩ := frameSoFar_stepAlza d b
      exact ⟨t, by rw [← ht, List.append_assoc]⟩
    rw [List.append_cons]
    exact (ih _).trans hb

theorem accMatchesFrame_feed {d : AlzaState} (h : AccMatchesFrame d) (xs : List Byte) :
    AccMatchesFrame ((alzaDecoder params).feed d xs) := by
  induction xs generalizing d with
  | nil => exact h
  | cons b bs ih => exact ih (stepAlza_keeps_acc params d b h)

/-- A decoder that was newly built or reset waits for a marker, with `acc` = 0. -/
theorem fstate_acc_of_scanning {d : AlzaState} (h : (alzaDecoder params).Scanning d) :
    d.fstate = .waitStart ∧ d.acc = 0 := by
  rcases h with rfl | ⟨d', rfl⟩ <;> exact ⟨rfl, rfl⟩

/-- What a decoder that has fed on `xs` since then holds: the sum of the frame in progress, with which `xs` ends. -/
theorem feed_of_scanning {d : AlzaState} (h : (alzaDecoder params).Scanning d) (xs : List Byte) :
    AccMatchesFrame ((alzaDecoder params).feed d xs) ∧ frameSoFar ((alzaDecoder params).feed d xs) <:+ xs := by
  obtain ⟨hf, ha⟩ := fstate_acc_of_scanning h
  have hsuf := frameSoFar_feed d xs
  rw [show frameSoFar d = [] by simp [frameSoFar, hf], List.nil_append] at hsuf
  exact ⟨accMatchesFrame_feed (by simp [AccMatchesFrame, hf, ha]) xs, hsuf⟩

/-! ## The contract -/

theorem acc_of_checksum {d : AlzaState} (h : AccMatchesFrame d) (hf : d.fstate = .checksum) :
    d.acc = d.buf.slot0 + d.buf.slot1 + d.buf.slot2 + d.buf.slot3 := by
  simpa [AccMatchesFrame, hf] using h

theorem validFrame_of_complete {d : AlzaState} {b : Byte} (h : AccMatchesFrame d)
    (hc : (stepAlza params d b).2 = .complete) : ValidAlzaFrame (frameSoFar d ++ [b]) := by
  have hf := fstate_of_complete hc
  have hb : b = d.acc := by
    by_contra hb
    simp [stepAlza, hf, hb] at hc
  rw [frameSoFar_of_checksum hf, hb, acc_of_checksum h hf]
  exact ⟨_, _, _, _, rfl⟩

theorem failedFrame_of_mismatch {d : AlzaState} {b : Byte} (h : AccMatchesFrame d)
    (hm : (stepAlza params d b).2 = .mismatch) : FailedAlzaFrame (frameSoFar d ++ [b]) := by
  rcases stepAlza_cases params d b with
    ⟨-, -, e⟩ | ⟨-, -, e⟩ | ⟨-, e⟩ | ⟨-, e⟩ | ⟨-, e⟩ | ⟨-, e⟩ | ⟨-, -, e⟩ | ⟨hf, hb, -⟩
  iterate 7 · simp [e] at hm
  · rw [acc_of_checksum h hf] at hb
    exact ⟨_, _, _, _, _, by rw [frameSoFar_of_checksum hf]; rfl, hb⟩

/-- A stream that ends with the frame in progress ends, with one byte more, with that frame and the byte. -/
theorem exists_frame_of_suffix {f xs : List Byte} (h : f <:+ xs) (b : Byte) (p : List Byte → Prop) (hp : p (f ++ [b])) :
    ∃ before g, xs ++ [b] = before ++ g ∧ p g := by
  obtain ⟨before, rfl⟩ := h
  exact ⟨before, f ++ [b], List.append_assoc _ _ _, hp⟩

/-- A decoder in WAIT_START reports a valid frame on its last byte and nothing before (O5 of R171). -/
theorem reports_of_validFrame {d : AlzaState} (hf : d.fstate = .waitStart) {f : List Byte} (h : ValidAlzaFrame f) :
    ((alzaDecoder params).trace d f).map Prod.fst = List.replicate (f.length - 1) .quiet ++ [.complete] := by
  obtain ⟨b1, b2, b3, b4, rfl⟩ := h
  simp [FrameDecoder.trace, alzaDecoder, stepAlza, hf, List.replicate]

theorem alzaDecoder_meetsContract : (alzaDecoder params).MeetsContract ValidAlzaFrame FailedAlzaFrame where
  complete_ends_valid := fun _ xs b hs hc => by
    obtain ⟨hacc, hsuf⟩ := feed_of_scanning hs xs
    exact exists_frame_of_suffix hsuf b _ (validFrame_of_complete hacc hc)
  mismatch_ends_failed := fun _ xs b hs hm => by
    obtain ⟨hacc, hsuf⟩ := feed_of_scanning hs xs
    exact exists_frame_of_suffix hsuf b _ (failedFrame_of_mismatch hacc hm)
  frame_after_reset := fun _ _ => reports_of_validFrame rfl

/-- Settles O30: the contract, then no height exactly without a digit, and the bound on the others. -/
theorem alzaMeetsDecoderContract : Obligations.AlzaMeetsDecoderContract :=
  ⟨alzaDecoder_meetsContract, decodeAlza_eq_none_iff, fun _ _ => toNat_le_of_decodeAlza⟩

end Sys2Proof.Machine
end

section
/-! PROOFS. Operations that change the variant leave the decoder newly built. -/

namespace Sys2Proof.Machine

variable {tw hw : Nat}

/-- The live decoder is the newly built one of the register `variant` (R172). -/
def NewlyBuilt (c : Config tw hw) (s : State tw hw) : Prop := s.dec = initDec c s.variant

theorem newlyBuilt_params {s : State} (h : NewlyBuilt params s) : s.dec = freshDecoder s.variant :=
  h.trans (freshDecoder_eq_initDec s.variant).symm

theorem newlyBuilt_selectVariant (c : Config tw hw) (g : Tag) (s : State tw hw) : NewlyBuilt c (selectVariant c g s) := by
  rcases selectVariant_cases c g s with ⟨v, -, e⟩ | ⟨-, e⟩ <;> rw [e] <;> rfl

theorem newlyBuilt_startDetection (c : Config tw hw) (s : State tw hw) : NewlyBuilt c (startDetection c s) := rfl

theorem newlyBuilt_advanceCandidate (c : Config tw hw) (s : State tw hw) : NewlyBuilt c (advanceCandidate c s) := by
  rcases advanceCandidate_cases c s with ⟨-, e⟩ | ⟨-, e⟩ <;> rw [e] <;> rfl

theorem newlyBuilt_powerOnReset (c : Config tw hw) (g : Tag) (s : State tw hw) : NewlyBuilt c (powerOnReset c g s) := by
  rcases powerOnReset_cases c g s with ⟨-, e⟩ | ⟨v, -, -, e⟩ | ⟨-, -, e⟩ <;> rw [e] <;> rfl

/-- TICK_CHECK changes the variant by ADVANCE only (R205). -/
theorem newlyBuilt_checkTick {c : Config tw hw} {s : State tw hw} (h : (checkTick c s).variant ≠ s.variant) :
    NewlyBuilt c (checkTick c s) := by
  rcases checkTick_cases c s with ⟨-, e⟩ | ⟨-, -, e⟩ | ⟨-, -, -, e⟩ | ⟨-, -, -, e⟩ <;> rw [e] at h ⊢
  iterate 3 · exact absurd rfl h
  · exact newlyBuilt_advanceCandidate c s

/-- Settles O41, operation by operation. -/
theorem variantChangeBuildsFreshDecoder : Obligations.VariantChangeBuildsFreshDecoder := by
  intro s t
  simp only [exec_next_iff]
  refine ⟨fun g ht => ?_, fun ht => ?_, fun ht => ?_, fun ht hv => ?_, fun e rest hin hr ht => ?_⟩
  · subst ht
    exact newlyBuilt_params (newlyBuilt_selectVariant params g s)
  · subst ht
    exact newlyBuilt_params (newlyBuilt_startDetection params s)
  · subst ht
    exact newlyBuilt_params (newlyBuilt_advanceCandidate params s)
  · subst ht
    exact newlyBuilt_params (newlyBuilt_checkTick hv)
  · rw [step_reset hin hr, Host.Outcome.next.injEq] at ht
    subst ht
    exact newlyBuilt_params (newlyBuilt_powerOnReset params _ _)

end Sys2Proof.Machine
end

section
/-! PROOFS. The selector: SELECT, START_DETECT, ADVANCE and TICK_CHECK under the default parameters, one equation a case, and
then the table of its two modes. -/

namespace Sys2Proof.Machine

variable {tw hw : Nat}

/-! ## NOP -/

/-- Settles O35: NOP and an edge without a command are the idle operation. -/
theorem nopOnlyClearsEvents : Obligations.NopOnlyClearsEvents := by
  refine ⟨fun s => rfl, rfl, fun s e rest hin hr hv => ?_⟩
  rw [step_edge hin, edgeOperation_of_no_command params hr hv]
  rfl

/-! ## SELECT -/

theorem selectVariant_tagOfVariant (c : Config tw hw) (v : Variant) (s : State tw hw) :
    selectVariant c (tagOfVariant v) s = withEvents { s with variant := v, dec := initDec c v } false false 0 false 0 := by
  rcases selectVariant_cases c (tagOfVariant v) s with ⟨u, hu, e⟩ | ⟨hn, -⟩
  · rw [variantOfTag_tagOfVariant, Option.some.injEq] at hu
    subst hu
    exact e
  · simp at hn

/-- The word of SELECT as its first word plus the tag (R91, R93). -/
theorem encode_select (g : Tag) : encode (.select g) = .cmd (0x300 + g.setWidth 12) :=
  congrArg PortWord.cmd (by revert g; decide)

/-- Settles O36: by the tag, a variant or none. -/
theorem selectInstallsVariant : Obligations.SelectInstallsVariant := by
  refine fun s g => ⟨decode_eq_ok_iff.2 (encode_select g), fun v hv => ?_, fun hg => ?_⟩
  · rw [hv, freshDecoder_eq_initDec]
    exact congrArg Host.Outcome.next (selectVariant_tagOfVariant params v s)
  · have hnone : variantOfTag g = none := by
      rcases hg with rfl | hg
      · exact variantOfTag_unknown
      · exact variantOfTag_of_five_le g hg
    exact congrArg Host.Outcome.next (selectVariant_of_none hnone)

/-! ## START_DETECT -/

/-- Settles O37: FIRST_VARIANT of the default parameters is ALZA. -/
theorem startDetectBeginsSession : Obligations.StartDetectBeginsSession :=
  ⟨rfl, fun s => congrArg Host.Outcome.next (startDetection_eq params s)⟩

/-! ## ADVANCE -/

theorem tagOfVariant_injective : Function.Injective tagOfVariant := fun u v h => by
  simpa using congrArg variantOfTag h

/-- The next variant by the tags (R100): no variant has the tag after OMNIDESK's. -/
theorem nextVariant_of_tag_succ {u v : Variant} (h : tagOfVariant u = tagOfVariant v + 1) :
    v ≠ lastVariant params ∧ nextVariant params v = u := by
  have hv : v ≠ lastVariant params := by
    rintro rfl
    have hu : (tagOfVariant u).toNat = 5 := congrArg BitVec.toNat h
    have := tagOfVariant_range u
    omega
  exact ⟨hv, tagOfVariant_injective ((tagOfVariant_nextVariant hv).trans h.symm)⟩

/-- ADVANCE where a variant with the next tag follows. -/
theorem advanceCandidate_of_tag_succ {s : State} {u : Variant} (h : tagOfVariant u = tagOfVariant s.variant + 1) :
    advanceCandidate params s = withEvents { s with
      variant := u, dec := freshDecoder u, probeStart := s.now, lastRead := -10 } false true 6 false 0 := by
  obtain ⟨hlast, rfl⟩ := nextVariant_of_tag_succ h
  rw [freshDecoder_eq_initDec]
  exact advanceCandidate_of_not_last hlast

/-- ADVANCE at OMNIDESK, the last variant. -/
theorem advanceCandidate_of_omnidesk {s : State} (h : s.variant = .omnidesk) :
    advanceCandidate params s = withEvents { s with
      variant := .alza, dec := freshDecoder .alza, detectActive := false } false true 4 false 0 :=
  advanceCandidate_of_last (c := params) h

/-- Settles O38, variant by variant. -/
theorem advanceMovesToNextCandidate : Obligations.AdvanceMovesToNextCandidate := by
  refine ⟨rfl, fun s => ⟨fun h => ?_, fun h => ?_, fun h => ?_, fun h => ?_⟩⟩
  iterate 3 · exact congrArg Host.Outcome.next (advanceCandidate_of_tag_succ (h ▸ rfl))
  · exact congrArg Host.Outcome.next (advanceCandidate_of_omnidesk h)

/-! ## TICK_CHECK -/

/-- The window of the default parameters, over the integers (R205). -/
theorem expired_params_iff_elapsedFrom (s : State) : expired params s = true ↔ 1000 < elapsedFrom s.probeStart s.now :=
  expired_iff params s

theorem checkTick_of_off {c : Config tw hw} {s : State tw hw} (h : s.detectActive = false) :
    checkTick c s = s.clearEvents := by
  simp [checkTick, h]

theorem checkTick_of_within_window {s : State} (hl : s.lastRead = -10) (hin : elapsedFrom s.probeStart s.now ≤ 1000) :
    checkTick params s = s.clearEvents := by
  have he : ¬expired params s = true := fun he => absurd ((expired_params_iff_elapsedFrom s).1 he) (by omega)
  cases ha : s.detectActive with
  | false => exact checkTick_of_off ha
  | true => exact (checkTick_of_sentinel ha hl).trans (if_neg he)

theorem checkTick_of_expired {s : State} (ha : s.detectActive = true) (hl : s.lastRead = -10)
    (he : 1000 < elapsedFrom s.probeStart s.now) : checkTick params s = advanceCandidate params s :=
  (checkTick_of_sentinel ha hl).trans (if_pos ((expired_params_iff_elapsedFrom s).2 he))

/-- Settles O39, case by case. -/
theorem tickCheckJudgesDetection : Obligations.TickCheckJudgesDetection :=
  ⟨rfl, fun _ =>
    ⟨fun ha => congrArg Host.Outcome.next (checkTick_of_off ha),
      fun ha hl => congrArg Host.Outcome.next (checkTick_of_read (c := params) ha hl),
      fun _ hl hin => congrArg Host.Outcome.next (checkTick_of_within_window hl hin),
      fun ha hl he => congrArg Host.Outcome.next (checkTick_of_expired ha hl he)⟩⟩

/-- Settles O45: BYTE_IN leaves `detect_active` alone, so the check finds an active session with a reading. -/
theorem completedFrameBeatsTimeout : Obligations.CompletedFrameBeatsTimeout := by
  intro s t b x hex ha _ hl
  have hactive : t.detectActive = true := by
    obtain ⟨y, h, fc, dv, dc, e, -⟩ := consumeByte_writes params b s
    rw [← exec_next_iff.1 hex, effect, e]
    exact ha
  exact congrArg Host.Outcome.next (checkTick_of_read (c := params) (s := { t with now := x }) hactive hl)

/-! ## The two modes -/

theorem modeOf_eq_probing_iff {s : State} {v : Variant} :
    modeOf s = .probing v ↔ s.detectActive = true ∧ s.variant = v := by
  cases h : s.detectActive <;> simp [modeOf, h]

theorem modeOf_eq_fixed_iff {s : State} {v : Variant} :
    modeOf s = .fixed v ↔ s.detectActive = false ∧ s.variant = v := by
  cases h : s.detectActive <;> simp [modeOf, h]

/-- SELECT with a tag that names no variant installs the default and stays in its mode. -/
theorem selectVariant_of_no_variant {s : State} {g : Tag} (hg : g ∈ [(0 : Tag), 5, 6, 7]) :
    (selectVariant params g s).variant = .alza ∧ (selectVariant params g s).detectActive = s.detectActive := by
  have hnone : ∀ g ∈ [(0 : Tag), 5, 6, 7], variantOfTag g = none := by decide
  rw [selectVariant_of_none (hnone g hg)]
  exact ⟨rfl, rfl⟩

/-- Settles O40, row by row; the rows of an expired TICK_CHECK are those of ADVANCE. -/
theorem selectorModeTransitions : Obligations.SelectorModeTransitions := by
  intro s t v
  simp only [exec_next_iff, modeOf_eq_fixed_iff, modeOf_eq_probing_iff, effect]
  have hselect (u : Variant) := selectVariant_tagOfVariant params u s
  have hadvance {u : Variant} (hv : s.variant = v) (hu : tagOfVariant u = tagOfVariant v + 1) :=
    advanceCandidate_of_tag_succ (hv ▸ hu)
  refine ⟨?startDetect, fun u hm ht => ?selectFixed, fun u hm ht => ?selectProbing, fun g hg hm ht => ?otherFixed,
    fun g hg hm ht => ?otherProbing, fun hm hl ht => ?confirm, fun u hm hl he hu ht => ?expire, fun hm hl he ht => ?exhaust,
    fun hm hl hin ht => ?wait, fun hm ht => ?tickFixed, fun u hm hu ht => ?advanceFixed, fun u hm hu ht => ?advanceProbing,
    fun hm ht => ?lastFixed, fun hm ht => ?lastProbing⟩
  case startDetect =>
    rintro rfl
    exact ⟨rfl, rfl⟩
  case selectFixed | selectProbing =>
    rw [← ht, hselect]
    exact ⟨hm.1, rfl⟩
  case otherFixed | otherProbing =>
    obtain ⟨hvariant, hactive⟩ := selectVariant_of_no_variant (s := s) hg
    rw [← ht]
    exact ⟨hactive.trans hm.1, hvariant⟩
  case confirm =>
    rw [← ht, checkTick_of_read (c := params) hm.1 hl]
    exact ⟨rfl, hm.2⟩
  case expire =>
    rw [← ht, checkTick_of_expired hm.1 hl he, hadvance hm.2 hu]
    exact ⟨hm.1, rfl⟩
  case exhaust =>
    rw [← ht, checkTick_of_expired hm.1 hl he, advanceCandidate_of_omnidesk hm.2]
    exact ⟨rfl, rfl⟩
  case wait =>
    rw [← ht, checkTick_of_within_window hl hin]
    exact hm
  case tickFixed =>
    rw [← ht, checkTick_of_off hm.1]
    exact hm
  case advanceFixed | advanceProbing =>
    rw [← ht, hadvance hm.2 hu]
    exact ⟨hm.1, rfl⟩
  case lastFixed | lastProbing =>
    rw [← ht, advanceCandidate_of_omnidesk hm.2]
    exact ⟨rfl, rfl⟩

end Sys2Proof.Machine
end

section
/-! PROOFS. Detection sessions over runs of ticks: ticks that do nothing can be left out, and an expired tick moves the session
to the next candidate or ends it. -/

namespace Sys2Proof.Machine

/-! ## Ticks that do nothing -/

/-- A tick at this time clears the event registers and does nothing else. -/
def IdleTick (s : State) (x : Time) : Prop := checkTick params (atTime s x) = (atTime s x).clearEvents

theorem idleTick_of_off {s : State} (h : s.detectActive = false) (x : Time) : IdleTick s x :=
  checkTick_of_off (s := atTime s x) h

theorem idleTick_of_within_window {s : State} {x : Time} (hl : s.lastRead = -10)
    (hw : elapsedFrom s.probeStart x ≤ 1000) : IdleTick s x :=
  checkTick_of_within_window (s := atTime s x) hl hw

/-- What a command does at a time does not show that a tick cleared the events before it. -/
theorem effect_after_clearEvents (s : State) (y x : Time) {i : Instr} (hi : isSegRow i = false) :
    effect params i (atTime (atTime s y).clearEvents x) = effect params i (atTime s x) :=
  effect_withEvents params hi (atTime s x) false false 0 false 0

/-- … so a tick that did nothing leaves the others as they were. -/
theorem idleTick_after_clearEvents {s : State} {x : Time} (h : IdleTick s x) (y : Time) :
    IdleTick (atTime s y).clearEvents x :=
  (effect_after_clearEvents s y x (i := .tickCheck) rfl).trans h

theorem runInputs_tick_cons (s : State) (x : Time) (l : List Input) :
    runInputs s (commandInput x .tickCheck :: l) = runInputs (checkTick params (atTime s x)) l :=
  runInputs_command s x rfl l

/-- Ticks that do nothing can be left out before a command. -/
theorem runInputs_idle_ticks_command {s : State} {ts : List Time} (h : ∀ x ∈ ts, IdleTick s x) (x : Time) {i : Instr}
    (hi : isSegRow i = false) (l : List Input) :
    runInputs s (tickInputs ts ++ commandInput x i :: l) = runInputs (effect params i (atTime s x)) l := by
  induction ts generalizing s with
  | nil => exact runInputs_command s x hi l
  | cons y ys ih =>
    obtain ⟨hy, hys⟩ := List.forall_mem_cons.1 h
    calc runInputs s (commandInput y .tickCheck :: (tickInputs ys ++ commandInput x i :: l))
        = runInputs (atTime s y).clearEvents (tickInputs ys ++ commandInput x i :: l) := by
          rw [runInputs_tick_cons, hy]
      _ = runInputs (effect params i (atTime (atTime s y).clearEvents x)) l :=
          ih fun z hz => idleTick_after_clearEvents (hys z hz) y
      _ = runInputs (effect params i (atTime s x)) l := by rw [effect_after_clearEvents s y x hi]

/-- The six registers of R30 and what the host presents next are what they were. -/
structure SameRegisters (s t : State) : Prop where
  variant : t.variant = s.variant
  dec : t.dec = s.dec
  detectActive : t.detectActive = s.detectActive
  probeStart : t.probeStart = s.probeStart
  lastRead : t.lastRead = s.lastRead
  lastPub : t.lastPub = s.lastPub
  inputs : t.inputs = s.inputs

/-- A run of ticks that do nothing ends with the registers it began with. -/
theorem runInputs_idle_ticks {s : State} {ts : List Time} (h : ∀ x ∈ ts, IdleTick s x) :
    ∃ t, runInputs s (tickInputs ts) = .next t ∧ SameRegisters s t := by
  rcases List.eq_nil_or_concat ts with rfl | ⟨ws, x, rfl⟩
  · exact ⟨s, runInputs_nil s, rfl, rfl, rfl, rfl, rfl, rfl, rfl⟩
  · have hws : ∀ y ∈ ws, IdleTick s y := fun y hy => h y (by simp [hy])
    have hx : IdleTick s x := h x (by simp)
    have hrun := runInputs_idle_ticks_command hws x (i := .tickCheck) rfl []
    refine ⟨(atTime s x).clearEvents, ?_, rfl, rfl, rfl, rfl, rfl, rfl, rfl⟩
    rw [tickInputs, List.concat_eq_append, List.map_append]
    exact hrun.trans (congrArg Host.Outcome.next hx)

/-- Settles O42: the first tick confirms, and with detection off the others do nothing. -/
theorem confirmedVariantStays : Obligations.ConfirmedVariantStays := by
  intro s t0 ts ha hl
  have hconfirm := checkTick_of_read (c := params) (s := atTime s t0) ha hl
  obtain ⟨t, ht, hsame⟩ := runInputs_idle_ticks (s := checkTick params (atTime s t0)) (ts := ts)
    fun x _ => idleTick_of_off (by rw [hconfirm]; rfl) x
  rw [hconfirm] at hsame
  exact ⟨t, (runInputs_tick_cons s t0 _).trans ht, hsame.detectActive, hsame.variant, hsame.dec, hsame.lastRead,
    hsame.probeStart, hsame.lastPub, hsame.inputs⟩

/-! ## A session that hears nothing -/

/-- Probing a variant since this time, with no reading of it yet. -/
def AwaitsReading (s : State) (v : Variant) (t0 : Time) : Prop :=
  modeOf s = .probing v ∧ s.probeStart = t0 ∧ s.lastRead = -10

section
variable {s : State} {v : Variant} {t0 t1 : Time} {w : List Time}

theorem idleTick_of_awaitsReading (h : AwaitsReading s v t0) (hw : ∀ x ∈ w, elapsedFrom t0 x ≤ 1000) :
    ∀ x ∈ w, IdleTick s x := by
  obtain ⟨-, rfl, hl⟩ := h
  exact fun x hx => idleTick_of_within_window hl (hw x hx)

/-- Ticks inside the window leave the session where it is (R221 (a)). -/
theorem runInputs_within_window (h : AwaitsReading s v t0) (hw : ∀ x ∈ w, elapsedFrom t0 x ≤ 1000) :
    ∃ t, runInputs s (tickInputs w) = .next t ∧ AwaitsReading t v t0 := by
  obtain ⟨t, ht, hsame⟩ := runInputs_idle_ticks (idleTick_of_awaitsReading h hw)
  obtain ⟨hm, hp, hl⟩ := h
  refine ⟨t, ht, ?_, hsame.probeStart.trans hp, hsame.lastRead.trans hl⟩
  rw [modeOf_eq_probing_iff] at hm ⊢
  exact ⟨hsame.detectActive.trans hm.1, hsame.variant.trans hm.2⟩

/-- A window's ticks and one after it are ADVANCE at the time of the last (R205). -/
theorem runInputs_past_window (h : AwaitsReading s v t0) (hw : ∀ x ∈ w, elapsedFrom t0 x ≤ 1000)
    (he : 1000 < elapsedFrom t0 t1) (l : List Time) :
    runInputs s (tickInputs (w ++ t1 :: l)) = runInputs (advanceCandidate params (atTime s t1)) (tickInputs l) := by
  have hidle := idleTick_of_awaitsReading h hw
  obtain ⟨hm, rfl, hl⟩ := h
  have hexpired := checkTick_of_expired (s := atTime s t1) (modeOf_eq_probing_iff.1 hm).1 hl he
  rw [← hexpired, tickInputs, List.map_append]
  exact runInputs_idle_ticks_command hidle t1 (i := .tickCheck) rfl (tickInputs l)

/-- ADVANCE starts the window of the next candidate. -/
theorem awaitsReading_advance {u : Variant} (h : AwaitsReading s v t0) (hu : tagOfVariant u = tagOfVariant v + 1) :
    AwaitsReading (advanceCandidate params (atTime s t1)) u t1 := by
  obtain ⟨ha, rfl⟩ := modeOf_eq_probing_iff.1 h.1
  rw [advanceCandidate_of_tag_succ (s := atTime s t1) hu]
  exact ⟨modeOf_eq_probing_iff.2 ⟨ha, rfl⟩, rfl, rfl⟩

/-- ADVANCE at the last candidate falls back to the default, and the sentinel stays (R200). -/
theorem advance_of_awaitsReading_omnidesk (h : AwaitsReading s .omnidesk t0) :
    modeOf (advanceCandidate params (atTime s t1)) = .fixed .alza ∧
    (advanceCandidate params (atTime s t1)).dec = freshDecoder .alza ∧
    (advanceCandidate params (atTime s t1)).diagCode = 4 ∧ (advanceCandidate params (atTime s t1)).lastRead = -10 := by
  obtain ⟨hm, -, hl⟩ := h
  rw [advanceCandidate_of_omnidesk (s := atTime s t1) (modeOf_eq_probing_iff.1 hm).2]
  exact ⟨rfl, rfl, rfl, hl⟩

end

/-- Settles O43: START_DETECT awaits ALZA's reading, and each tick past a window the next candidate's, until there is none. -/
theorem detectionWithoutBytesExhausts : Obligations.DetectionWithoutBytesExhausts := by
  intro s t0 t1 t2 t3 t4 w1 w2 w3 w4 hw1 he1 hw2 he2 hw3 he3 hw4 he4
  have halza : AwaitsReading (startDetection params (atTime s t0)) .alza t0 := ⟨rfl, rfl, rfl⟩
  have hjarvis := awaitsReading_advance (t1 := t1) (u := .jarvis) halza rfl
  have huplift := awaitsReading_advance (t1 := t2) (u := .uplift) hjarvis rfl
  have homnidesk := awaitsReading_advance (t1 := t3) (u := .omnidesk) huplift rfl
  have hstart (l : List Input) : runInputs s (commandInput t0 .startDetect :: l) =
      runInputs (startDetection params (atTime s t0)) l := runInputs_command s t0 rfl l
  simp only [hstart, List.append_assoc, List.cons_append, runInputs_past_window halza hw1 he1,
    runInputs_past_window hjarvis hw2 he2, runInputs_past_window huplift hw3 he3, runInputs_past_window homnidesk hw4 he4]
  refine ⟨runInputs_within_window halza hw1, runInputs_within_window hjarvis hw2, runInputs_within_window huplift hw3,
    runInputs_within_window homnidesk hw4, ?_⟩
  exact ⟨_, runInputs_nil _, advance_of_awaitsReading_omnidesk homnidesk⟩

/-! ## A session whose windows all expire -/

theorem toNat_tagOfVariant_nextVariant {v : Variant} (h : v ≠ lastVariant params) :
    (tagOfVariant (nextVariant params v)).toNat = (tagOfVariant v).toNat + 1 := by
  cases v with
  | omnidesk => exact absurd rfl h
  | alza | jarvis | uplift => rfl

/-- A tick past the window ends the session, or starts the window of a candidate with the next tag (R205). -/
theorem checkTick_past_window {s : State} {x : Time} (ha : s.detectActive = true)
    (he : 1000 < elapsedFrom s.probeStart x) :
    (checkTick params (atTime s x)).detectActive = false ∨
    ((checkTick params (atTime s x)).detectActive = true ∧ (checkTick params (atTime s x)).probeStart = x ∧
      (tagOfVariant (checkTick params (atTime s x)).variant).toNat = (tagOfVariant s.variant).toNat + 1) := by
  by_cases hl : s.lastRead = -10
  · rw [checkTick_of_expired (s := atTime s x) ha hl he]
    rcases advanceCandidate_cases params (atTime s x) with ⟨-, e⟩ | ⟨hn, e⟩ <;> rw [e]
    · exact .inl rfl
    · exact .inr ⟨ha, rfl, toNat_tagOfVariant_nextVariant hn⟩
  · rw [checkTick_of_read (c := params) (s := atTime s x) ha hl]
    exact .inl rfl

/-- A session ends within ticks that each expire, if they are as many as the candidates from the present one on: tags grow up
to 4 (R221 (c)). -/
theorem session_ends_in_expiries {s : State} {ts : List Time} (ha : s.detectActive = true)
    (hexp : (s.probeStart :: ts).IsChain (fun a b => 1000 < elapsedFrom a b))
    (hlen : 5 ≤ ts.length + (tagOfVariant s.variant).toNat) :
    ∃ n t, n ≤ ts.length ∧ runInputs s (tickInputs (ts.take n)) = .next t ∧ t.detectActive = false := by
  induction ts generalizing s with
  | nil =>
    have := tagOfVariant_range s.variant
    rw [List.length_nil] at hlen
    omega
  | cons x xs ih =>
    obtain ⟨he, hexp⟩ := List.isChain_cons_cons.1 hexp
    rcases checkTick_past_window ha he with hoff | ⟨hon, hstart, htag⟩
    · exact ⟨1, _, by simp, runInputs_tick_cons s x [], hoff⟩
    · rw [List.length_cons] at hlen
      obtain ⟨n, t, hn, hrun, hoff⟩ := ih hon (hstart.symm ▸ hexp) (by omega)
      exact ⟨n + 1, t, Nat.succ_le_succ hn, (runInputs_tick_cons s x _).trans hrun, hoff⟩

/-- Settles O44: the four ticks are as many as there are candidates. -/
theorem probingEndsInFourExpiries : Obligations.ProbingEndsInFourExpiries := by
  intro s t1 t2 t3 t4 ha h1 h2 h3 h4
  obtain ⟨htag, -⟩ := tagOfVariant_range s.variant
  have hlen : 5 ≤ [t1, t2, t3, t4].length + (tagOfVariant s.variant).toNat := Nat.add_le_add_left htag 4
  exact session_ends_in_expiries ha (by simp [h1, h2, h3, h4]) hlen

end Sys2Proof.Machine
end

section
/-! PROOFS. The publish qualifier: what POLL does by its test of `last_read`, and that it alone publishes. -/

namespace Sys2Proof.Machine

variable {tw hw : Nat} {s : State tw hw}

/-! ## POLL by its test -/

/-- POLL of a positive and new reading publishes it (R230). -/
theorem pollPublish_of_qualifying (hpos : 0 < s.lastRead.toInt) (hnew : s.lastRead ≠ s.lastPub) :
    pollPublish s = withEvents { s with lastPub := s.lastRead } false false 0 true s.lastRead := by
  rcases pollPublish_cases s with ⟨-, -, e⟩ | ⟨hn, -⟩
  · exact e
  · exact absurd ⟨hpos, hnew⟩ hn

/-- POLL of any other reading is an idle cycle (R230). -/
theorem pollPublish_of_not_qualifying (h : ¬(0 < s.lastRead.toInt ∧ s.lastRead ≠ s.lastPub)) :
    pollPublish s = withEvents s false false 0 false 0 := by
  rcases pollPublish_cases s with ⟨hpos, hnew, -⟩ | ⟨-, e⟩
  · exact absurd ⟨hpos, hnew⟩ h
  · exact e

/-- Settles O47, by the outcome of the test. -/
theorem pollPublishesPositiveNewHeight : Obligations.PollPublishesPositiveNewHeight :=
  ⟨rfl, fun _ =>
    ⟨fun hpos hnew => congrArg Host.Outcome.next (pollPublish_of_qualifying hpos hnew),
      fun h => congrArg Host.Outcome.next (pollPublish_of_not_qualifying h)⟩⟩

/-! ## What a publication shows -/

/-- No other command publishes: `pub_valid` is cleared first, and only POLL sets it (R36, R243). -/
theorem eq_poll_of_pubValid {i : Instr} {s t : State} (hi : isSegRow i = false) (h : exec i s = .next t)
    (hp : t.pubValid = true) : i = .poll := by
  obtain ⟨-, -, -, -, -, -, -, -, -, hpublish⟩ := diagnosticsOfEachInstruction i s t hi h
  exact (hpublish hp).1

/-- A POLL that published had a positive and new reading, and remembers it (R230, R231). -/
theorem published_of_pubValid_pollPublish (h : (pollPublish s).pubValid = true) :
    0 < (pollPublish s).pubValue.toInt ∧ (pollPublish s).pubValue ≠ s.lastPub ∧
      (pollPublish s).lastPub = (pollPublish s).pubValue := by
  rcases pollPublish_cases s with ⟨hpos, hnew, e⟩ | ⟨-, e⟩ <;> rw [e] at h ⊢
  · exact ⟨hpos, hnew, rfl⟩
  · cases h

/-- Settles O48: the command is POLL, and POLL publishes only what passed its test. -/
theorem publishedOnlyPositiveAndNew : Obligations.PublishedOnlyPositiveAndNew := by
  intro i s t hi h hp
  obtain rfl := eq_poll_of_pubValid hi h hp
  rw [exec_next_iff] at h
  subst h
  exact ⟨rfl, published_of_pubValid_pollPublish hp⟩

end Sys2Proof.Machine
end

section
/-! PROOFS. No operation halts the block. -/

namespace Sys2Proof.Machine

/-- A step always answers the state its fetched operation makes, whichever operation that is (R242, R246). -/
theorem step_eq_next_perform (s : State) : step s = .next (perform params (fetch params s).1 (fetch params s).2) :=
  step_eq_stepWith s

/-- Settles O15: a step answers by `perform` of what it fetched, an instruction by its `effect`. -/
theorem everyStepAnswersNext : Obligations.EveryStepAnswersNext :=
  ⟨fun s => ⟨_, step_eq_next_perform s⟩, fun i s => ⟨_, exec_eq_effect i s⟩⟩

end Sys2Proof.Machine
end

section
/-! PROOFS. Reset and hazards: at an edge with `rst` = 1 no command is seen, a POR leaves nothing for the next one to find, and a
frame with an unrecognized digit leaves no reading to publish or to confirm. -/

namespace Sys2Proof.Machine

variable {tw hw : Nat}

/-! ## Commands and resets at an edge with `rst` = 1 -/

/-- With `rst` the operation of an edge does not depend on `cmd_valid` and `cmd` (R275). -/
theorem edgeOperation_command_of_reset (c : Config tw hw) {e : Edge tw} (h : e.rst = true) (v : Bool) (w : CmdWord) :
    edgeOperation c { e with cmdValid := v, cmd := w } = edgeOperation c e := by
  rw [edgeOperation_of_reset c h, edgeOperation_of_reset c (e := { e with cmdValid := v, cmd := w }) h]

/-- Settles O12: both steps perform the same POR in the same state. -/
theorem commandDuringResetIsLost : Obligations.CommandDuringResetIsLost := by
  intro s e rest v w h
  rw [step_edge rfl, step_edge rfl, edgeOperation_command_of_reset params h]

/-- POR writes every register, so an earlier POR makes no difference to it (R270, R272). -/
theorem powerOnReset_after_powerOnReset (c : Config tw hw) (g g' : Tag) (s : State tw hw) (x x' : Time tw) :
    powerOnReset c g (atTime (powerOnReset c g' (atTime s x')) x) = powerOnReset c g (atTime s x) := by
  rcases powerOnReset_cases c g' (atTime s x') with ⟨-, e⟩ | ⟨v, -, -, e⟩ | ⟨-, -, e⟩ <;> rw [e] <;> rfl

/-- Settles O18, by induction on the edges before the last. -/
theorem longResetIsItsLastEdge : Obligations.LongResetIsItsLastEdge := by
  intro s es last hes hlast
  induction es generalizing s with
  | nil => rfl
  | cons e es ih =>
    obtain ⟨he, hes'⟩ := List.forall_mem_cons.1 hes
    calc runInputs s (.edge e :: (es.map Input.edge ++ [.edge last]))
        = runInputs (powerOnReset params e.cfgVariant (atTime s e.now)) (es.map Input.edge ++ [.edge last]) :=
          runInputs_reset s e he _
      _ = runInputs (powerOnReset params e.cfgVariant (atTime s e.now)) [.edge last] := ih _ hes'
      _ = runInputs s [.edge last] := by
          rw [runInputs_reset _ last hlast, runInputs_reset s last hlast, powerOnReset_after_powerOnReset]

/-! ## A completed frame with an unrecognized digit -/

/-- The sentinel is not positive, so POLL does not publish it (R230). -/
theorem pollPublish_of_sentinel {s : State} (h : s.lastRead = -10) :
    pollPublish s = withEvents s false false 0 false 0 :=
  pollPublish_of_not_qualifying fun ⟨hpos, _⟩ => absurd (h ▸ hpos) (by decide)

/-- ADVANCE raises DETECTION_EXHAUSTED or CANDIDATE_ADVANCED (R200). -/
theorem advanceCandidate_diagCode (c : Config tw hw) (s : State tw hw) :
    (advanceCandidate c s).diagCode = 4 ∨ (advanceCandidate c s).diagCode = 6 := by
  rcases advanceCandidate_cases c s with ⟨-, e⟩ | ⟨-, e⟩ <;> rw [e]
  · exact .inl rfl
  · exact .inr rfl

/-- TICK_CHECK confirms a reading only, never the sentinel (R205). -/
theorem checkTick_of_sentinel_not_confirmed {c : Config tw hw} {s : State tw hw} (h : s.lastRead = c.sentinel) :
    (checkTick c s).diagCode ≠ 5 := by
  rcases checkTick_cases c s with ⟨-, e⟩ | ⟨-, hl, -⟩ | ⟨-, -, -, e⟩ | ⟨-, -, -, e⟩
  · simp [e]
  · exact absurd h hl
  · simp [e]
  · rcases advanceCandidate_diagCode c s with hd | hd <;> simp [e, hd]

/-- Settles O46: by `diagnosticsOfEachInstruction` the frame leaves the sentinel, which POLL does not publish and TICK_CHECK
does not confirm. -/
theorem badDigitReplacesReading : Obligations.BadDigitReplacesReading := by
  intro s t b hex hdiag
  obtain ⟨-, -, hunrecognized, -⟩ := diagnosticsOfEachInstruction (.byteIn b) s t rfl hex
  obtain ⟨-, hcomplete, hread⟩ := hunrecognized hdiag
  refine ⟨hcomplete, hread, congrArg Host.Outcome.next (pollPublish_of_sentinel hread), fun x u hu => ?_⟩
  rw [exec_next_iff] at hu
  subst hu
  exact checkTick_of_sentinel_not_confirmed (c := params) hread

end Sys2Proof.Machine
end
